-- ==== Sys2Proof/Word.lean ====
section
/-! DEFINITION. The word types of the core: bytes, instruction words, the 12-bit and 4-bit fields. -/

namespace Sys2Proof

/-- One byte of DMEM (20_memory.md R46). -/
abbrev Byte := BitVec 8

/-- One word of CMDMEM, of the instruction stream and of the host bus (20_memory.md R46, R48). -/
abbrev Word := BitVec 32

/-- The width of pc, K, ENTRY and FAULT_PC (10_state.md R29, R31, R39, R42). -/
abbrev Word12 := BitVec 12

/-- A register index 0-15 (30_encoding.md R65). -/
abbrev RegIdx := Fin 16

end Sys2Proof
end

