-- ==== Sys2Proof/Syntax.lean ====
section
/-! DEFINITION. The instructions: one constructor for each of the 65 rows of spec/opcode_table.json
(30_encoding.md R67), and the pseudo-instructions as second spellings (R71). -/

namespace Sys2Proof

/-- One instruction. Register fields are indices into the file the opcode names (30_encoding.md R65); a branch target
`t` is an absolute word index; slots, constants, magnitude bounds and widths are the unsigned integers of R66. -/
inductive Instr where
  -- control (40_control.md)
  | halt
  | jmp (t : Word12)
  | bt (t : Word12)
  | bf (t : Word12)
  | setk (i : Nat)
  | djnz (t : Word12)
  | nop
  -- loads, stores, moves and constants (40_control.md)
  | fld (d : RegIdx) (slot : Nat)
  | fst (a : RegIdx) (slot : Nat)
  | sld (d : RegIdx) (slot : Nat)
  | sst (a : RegIdx) (slot : Nat)
  | fmov (d a : RegIdx)
  | smov (d a : RegIdx)
  | fseti (d : RegIdx) (i : Nat)
  | sseti (d : RegIdx) (i : Nat)
  | sfromf (d a : RegIdx)
  | ffroms (d a : RegIdx)
  | amov (d a : RegIdx)
  | jmov (d a : RegIdx)
  -- field (41_field.md)
  | fadd (d a b : RegIdx)
  | fneg (d a : RegIdx) (bound : Nat)
  | fmul (d a b : RegIdx)
  | fsqr (d a : RegIdx)
  | fmulm (d a b : RegIdx)
  | fnorm (d a : RegIdx)
  | fnormv (d a : RegIdx)
  | finv (d a : RegIdx)
  | fsqrt (d a : RegIdx)
  | fisz (a : RegIdx)
  | fisodd (a : RegIdx)
  | feq (a b : RegIdx)
  | flt (a b : RegIdx)
  -- scalar (42_scalar.md)
  | sadd (d a b : RegIdx)
  | sneg (d a : RegIdx)
  | smul (d a b : RegIdx)
  | smulm (d a b : RegIdx)
  | sinv (d a : RegIdx)
  | sisz (a : RegIdx)
  | seq (a b : RegIdx)
  | slt (a b : RegIdx)
  | shigh (a : RegIdx)
  | swnaf (slot : Nat) (a : RegIdx) (w : Nat)
  -- group (43_group.md)
  | psetxy (d a b : RegIdx)
  | psetinf (d : RegIdx)
  | pldg (d : RegIdx)
  | pgetx (d a : RegIdx)
  | pgety (d a : RegIdx)
  | pvalid (a : RegIdx)
  | pisinf (a : RegIdx)
  | pneg (d a : RegIdx)
  | jsetinf (d : RegIdx)
  | jfroma (d a : RegIdx)
  | jtoa (d a : RegIdx)
  | jisinf (a : RegIdx)
  | jneg (d a : RegIdx)
  | jdbl (d a : RegIdx)
  | jadda (d a b : RegIdx)
  | jadd (d a b : RegIdx)
  -- multiply (44_multiply.md)
  | gctx
  | pmul (d a b : RegIdx)
  | pmulg (d a : RegIdx)
  | pmulgq (d a b c : RegIdx)
  -- ecdsa (45_ecdsa.md)
  | esign (slot : Nat) (h d k : RegIdx)
  | everify (q h : RegIdx) (slot : Nat)
  | erecover (d h : RegIdx) (slot : Nat)
deriving DecidableEq, Repr

namespace Instr

/-- `FZERO Fd` (30_encoding.md R71). -/
def fzero (d : RegIdx) : Instr := .fseti d 0

/-- `FONE Fd` (30_encoding.md R71). -/
def fone (d : RegIdx) : Instr := .fseti d 1

/-- `SZERO Sd` (30_encoding.md R71). -/
def szero (d : RegIdx) : Instr := .sseti d 0

/-- `SONE Sd` (30_encoding.md R71). -/
def sone (d : RegIdx) : Instr := .sseti d 1

/-- `B t` (30_encoding.md R71). -/
def b (t : Word12) : Instr := .jmp t

/-- The instruction's mnemonic, as spec/opcode_table.json spells it. -/
def mnemonic : Instr → String
  | .halt => "HALT"
  | .jmp _ => "JMP"
  | .bt _ => "BT"
  | .bf _ => "BF"
  | .setk _ => "SETK"
  | .djnz _ => "DJNZ"
  | .nop => "NOP"
  | .fld _ _ => "FLD"
  | .fst _ _ => "FST"
  | .sld _ _ => "SLD"
  | .sst _ _ => "SST"
  | .fmov _ _ => "FMOV"
  | .smov _ _ => "SMOV"
  | .fseti _ _ => "FSETI"
  | .sseti _ _ => "SSETI"
  | .sfromf _ _ => "SFROMF"
  | .ffroms _ _ => "FFROMS"
  | .amov _ _ => "AMOV"
  | .jmov _ _ => "JMOV"
  | .fadd _ _ _ => "FADD"
  | .fneg _ _ _ => "FNEG"
  | .fmul _ _ _ => "FMUL"
  | .fsqr _ _ => "FSQR"
  | .fmulm _ _ _ => "FMULM"
  | .fnorm _ _ => "FNORM"
  | .fnormv _ _ => "FNORMV"
  | .finv _ _ => "FINV"
  | .fsqrt _ _ => "FSQRT"
  | .fisz _ => "FISZ"
  | .fisodd _ => "FISODD"
  | .feq _ _ => "FEQ"
  | .flt _ _ => "FLT"
  | .sadd _ _ _ => "SADD"
  | .sneg _ _ => "SNEG"
  | .smul _ _ _ => "SMUL"
  | .smulm _ _ _ => "SMULM"
  | .sinv _ _ => "SINV"
  | .sisz _ => "SISZ"
  | .seq _ _ => "SEQ"
  | .slt _ _ => "SLT"
  | .shigh _ => "SHIGH"
  | .swnaf _ _ _ => "SWNAF"
  | .psetxy _ _ _ => "PSETXY"
  | .psetinf _ => "PSETINF"
  | .pldg _ => "PLDG"
  | .pgetx _ _ => "PGETX"
  | .pgety _ _ => "PGETY"
  | .pvalid _ => "PVALID"
  | .pisinf _ => "PISINF"
  | .pneg _ _ => "PNEG"
  | .jsetinf _ => "JSETINF"
  | .jfroma _ _ => "JFROMA"
  | .jtoa _ _ => "JTOA"
  | .jisinf _ => "JISINF"
  | .jneg _ _ => "JNEG"
  | .jdbl _ _ => "JDBL"
  | .jadda _ _ _ => "JADDA"
  | .jadd _ _ _ => "JADD"
  | .gctx => "GCTX"
  | .pmul _ _ _ => "PMUL"
  | .pmulg _ _ => "PMULG"
  | .pmulgq _ _ _ _ => "PMULGQ"
  | .esign _ _ _ _ => "ESIGN"
  | .everify _ _ _ => "EVERIFY"
  | .erecover _ _ _ => "ERECOVER"

end Instr

end Sys2Proof
end

