-- ==== Sys2Proof/WellFormed.lean ====
section
/-! DEFINITION. When a term of Instr is an instruction of the machine: every immediate fits its field
(30_encoding.md R64, R66). Register indices and branch targets fit by their types. -/

namespace Sys2Proof

/-- An imm12 operand is an unsigned 12-bit integer (30_encoding.md R66). -/
def fitsImm12 (v : Nat) : Bool := decide (v < 4096)

/-- The width operand of SWNAF is the unsigned 4-bit integer of r3 (30_encoding.md R66). -/
def fitsR3 (v : Nat) : Bool := decide (v < 16)

namespace Instr

/-- Every immediate of the instruction fits its field. -/
def wellFormed : Instr → Bool
  | .halt | .jmp _ | .bt _ | .bf _ | .djnz _ | .nop => true
  | .setk i => fitsImm12 i
  | .fld _ s | .fst _ s | .sld _ s | .sst _ s => fitsImm12 s
  | .fmov _ _ | .smov _ _ | .sfromf _ _ | .ffroms _ _ | .amov _ _ | .jmov _ _ => true
  | .fseti _ i | .sseti _ i => fitsImm12 i
  | .fadd _ _ _ | .fmul _ _ _ | .fsqr _ _ | .fmulm _ _ _ | .fnorm _ _ | .fnormv _ _ | .finv _ _ | .fsqrt _ _ => true
  | .fneg _ _ m => fitsImm12 m
  | .fisz _ | .fisodd _ | .feq _ _ | .flt _ _ => true
  | .sadd _ _ _ | .sneg _ _ | .smul _ _ _ | .smulm _ _ _ | .sinv _ _ => true
  | .sisz _ | .seq _ _ | .slt _ _ | .shigh _ => true
  | .swnaf s _ w => fitsImm12 s && fitsR3 w
  | .psetxy _ _ _ | .psetinf _ | .pldg _ | .pgetx _ _ | .pgety _ _ | .pvalid _ | .pisinf _ | .pneg _ _ => true
  | .jsetinf _ | .jfroma _ _ | .jtoa _ _ | .jisinf _ | .jneg _ _ | .jdbl _ _ | .jadda _ _ _ | .jadd _ _ _ => true
  | .gctx | .pmul _ _ _ | .pmulg _ _ | .pmulgq _ _ _ _ => true
  | .esign s _ _ _ | .everify _ _ s | .erecover _ _ s => fitsImm12 s

end Instr

end Sys2Proof
end

