-- ==== Sys2Proof/Decode.lean ====
section
/-! DEFINITION. Reading an instruction from its 32-bit word, total and rejecting by name, and writing the word of an
instruction (30_encoding.md R64-R69). The opcode table of R67 stands beside them as rows of match and mask. -/

namespace Sys2Proof

/-- Why a word is no instruction: the two cases of 30_encoding.md R69. -/
inductive Reject where
  /-- The op field is one of the 191 unassigned values. -/
  | unassignedOp (op : Nat)
  /-- The op field is assigned, but a field its row marks 0 is not zero. -/
  | nonzeroField (op : Nat)
deriving DecidableEq, Repr

/-- The unsigned value of the `n` bits of `w` from bit `lo` up (00_scope.md R11, R15 `zext_N`). -/
def bits (w : Word) (lo n : Nat) : Nat := w.toNat / 2 ^ lo % 2 ^ n

/-- op[31:24] (30_encoding.md R64). -/
def opField (w : Word) : Nat := bits w 24 8

/-- r1[23:20] (30_encoding.md R64). -/
def r1Field (w : Word) : Nat := bits w 20 4

/-- r2[19:16] (30_encoding.md R64). -/
def r2Field (w : Word) : Nat := bits w 16 4

/-- r3[15:12] (30_encoding.md R64). -/
def r3Field (w : Word) : Nat := bits w 12 4

/-- imm12[11:0], unsigned, never sign-extended, scaled or shifted (30_encoding.md R66). -/
def imm12 (w : Word) : Nat := bits w 0 12

/-- The register index in r1 (30_encoding.md R65). -/
def r1 (w : Word) : RegIdx := Fin.ofNat 16 (r1Field w)

/-- The register index in r2 (30_encoding.md R65). -/
def r2 (w : Word) : RegIdx := Fin.ofNat 16 (r2Field w)

/-- The register index in r3 (30_encoding.md R65). -/
def r3 (w : Word) : RegIdx := Fin.ofNat 16 (r3Field w)

/-- The fourth register index of PMULGQ, imm12 bits 3:0 (30_encoding.md R66). -/
def r4 (w : Word) : RegIdx := Fin.ofNat 16 (bits w 0 4)

/-- A branch target, an absolute CMDMEM index (30_encoding.md R66). -/
def target (w : Word) : Word12 := BitVec.ofNat 12 (imm12 w)

/-- Read `i` when the fields its row marks 0 sum to zero, and reject the word otherwise (30_encoding.md R69). -/
def mustBeZero (w : Word) (fields : Nat) (i : Instr) : Except Reject Instr :=
  if fields = 0 then .ok i else .error (.nonzeroField (opField w))

/-- The instruction a word stands for (30_encoding.md R67), or why it is none (R69). -/
def decode (w : Word) : Except Reject Instr :=
  match opField w with
  | 0x01 => mustBeZero w (r1Field w + r2Field w + r3Field w + imm12 w) .halt
  | 0x02 => mustBeZero w (r1Field w + r2Field w + r3Field w) (.jmp (target w))
  | 0x03 => mustBeZero w (r1Field w + r2Field w + r3Field w) (.bt (target w))
  | 0x04 => mustBeZero w (r1Field w + r2Field w + r3Field w) (.bf (target w))
  | 0x05 => mustBeZero w (r1Field w + r2Field w + r3Field w) (.setk (imm12 w))
  | 0x06 => mustBeZero w (r1Field w + r2Field w + r3Field w) (.djnz (target w))
  | 0x07 => mustBeZero w (r1Field w + r2Field w + r3Field w + imm12 w) .nop
  | 0x08 => mustBeZero w (r2Field w + r3Field w) (.fld (r1 w) (imm12 w))
  | 0x09 => mustBeZero w (r1Field w + r3Field w) (.fst (r2 w) (imm12 w))
  | 0x0A => mustBeZero w (r2Field w + r3Field w) (.sld (r1 w) (imm12 w))
  | 0x0B => mustBeZero w (r1Field w + r3Field w) (.sst (r2 w) (imm12 w))
  | 0x0C => mustBeZero w (r3Field w + imm12 w) (.fmov (r1 w) (r2 w))
  | 0x0D => mustBeZero w (r3Field w + imm12 w) (.smov (r1 w) (r2 w))
  | 0x0E => mustBeZero w (r2Field w + r3Field w) (.fseti (r1 w) (imm12 w))
  | 0x0F => mustBeZero w (r2Field w + r3Field w) (.sseti (r1 w) (imm12 w))
  | 0x10 => mustBeZero w (r3Field w + imm12 w) (.sfromf (r1 w) (r2 w))
  | 0x11 => mustBeZero w (r3Field w + imm12 w) (.ffroms (r1 w) (r2 w))
  | 0x12 => mustBeZero w (r3Field w + imm12 w) (.amov (r1 w) (r2 w))
  | 0x13 => mustBeZero w (r3Field w + imm12 w) (.jmov (r1 w) (r2 w))
  | 0x20 => mustBeZero w (imm12 w) (.fadd (r1 w) (r2 w) (r3 w))
  | 0x21 => mustBeZero w (r3Field w) (.fneg (r1 w) (r2 w) (imm12 w))
  | 0x22 => mustBeZero w (imm12 w) (.fmul (r1 w) (r2 w) (r3 w))
  | 0x23 => mustBeZero w (r3Field w + imm12 w) (.fsqr (r1 w) (r2 w))
  | 0x24 => mustBeZero w (imm12 w) (.fmulm (r1 w) (r2 w) (r3 w))
  | 0x25 => mustBeZero w (r3Field w + imm12 w) (.fnorm (r1 w) (r2 w))
  | 0x26 => mustBeZero w (r3Field w + imm12 w) (.fnormv (r1 w) (r2 w))
  | 0x27 => mustBeZero w (r3Field w + imm12 w) (.finv (r1 w) (r2 w))
  | 0x28 => mustBeZero w (r3Field w + imm12 w) (.fsqrt (r1 w) (r2 w))
  | 0x29 => mustBeZero w (r1Field w + r3Field w + imm12 w) (.fisz (r2 w))
  | 0x2A => mustBeZero w (r1Field w + r3Field w + imm12 w) (.fisodd (r2 w))
  | 0x2B => mustBeZero w (r1Field w + imm12 w) (.feq (r2 w) (r3 w))
  | 0x2C => mustBeZero w (r1Field w + imm12 w) (.flt (r2 w) (r3 w))
  | 0x30 => mustBeZero w (imm12 w) (.sadd (r1 w) (r2 w) (r3 w))
  | 0x31 => mustBeZero w (r3Field w + imm12 w) (.sneg (r1 w) (r2 w))
  | 0x32 => mustBeZero w (imm12 w) (.smul (r1 w) (r2 w) (r3 w))
  | 0x33 => mustBeZero w (imm12 w) (.smulm (r1 w) (r2 w) (r3 w))
  | 0x34 => mustBeZero w (r3Field w + imm12 w) (.sinv (r1 w) (r2 w))
  | 0x35 => mustBeZero w (r1Field w + r3Field w + imm12 w) (.sisz (r2 w))
  | 0x36 => mustBeZero w (r1Field w + imm12 w) (.seq (r2 w) (r3 w))
  | 0x37 => mustBeZero w (r1Field w + imm12 w) (.slt (r2 w) (r3 w))
  | 0x38 => mustBeZero w (r1Field w + r3Field w + imm12 w) (.shigh (r2 w))
  | 0x39 => mustBeZero w (r1Field w) (.swnaf (imm12 w) (r2 w) (r3Field w))
  | 0x40 => mustBeZero w (imm12 w) (.psetxy (r1 w) (r2 w) (r3 w))
  | 0x41 => mustBeZero w (r2Field w + r3Field w + imm12 w) (.psetinf (r1 w))
  | 0x42 => mustBeZero w (r2Field w + r3Field w + imm12 w) (.pldg (r1 w))
  | 0x43 => mustBeZero w (r3Field w + imm12 w) (.pgetx (r1 w) (r2 w))
  | 0x44 => mustBeZero w (r3Field w + imm12 w) (.pgety (r1 w) (r2 w))
  | 0x45 => mustBeZero w (r1Field w + r3Field w + imm12 w) (.pvalid (r2 w))
  | 0x46 => mustBeZero w (r1Field w + r3Field w + imm12 w) (.pisinf (r2 w))
  | 0x47 => mustBeZero w (r3Field w + imm12 w) (.pneg (r1 w) (r2 w))
  | 0x48 => mustBeZero w (r2Field w + r3Field w + imm12 w) (.jsetinf (r1 w))
  | 0x49 => mustBeZero w (r3Field w + imm12 w) (.jfroma (r1 w) (r2 w))
  | 0x4A => mustBeZero w (r3Field w + imm12 w) (.jtoa (r1 w) (r2 w))
  | 0x4B => mustBeZero w (r1Field w + r3Field w + imm12 w) (.jisinf (r2 w))
  | 0x4C => mustBeZero w (r3Field w + imm12 w) (.jneg (r1 w) (r2 w))
  | 0x4D => mustBeZero w (r3Field w + imm12 w) (.jdbl (r1 w) (r2 w))
  | 0x4E => mustBeZero w (imm12 w) (.jadda (r1 w) (r2 w) (r3 w))
  | 0x4F => mustBeZero w (imm12 w) (.jadd (r1 w) (r2 w) (r3 w))
  | 0x60 => mustBeZero w (r1Field w + r2Field w + r3Field w + imm12 w) .gctx
  | 0x61 => mustBeZero w (imm12 w) (.pmul (r1 w) (r2 w) (r3 w))
  | 0x62 => mustBeZero w (r3Field w + imm12 w) (.pmulg (r1 w) (r2 w))
  | 0x63 => mustBeZero w (bits w 4 8) (.pmulgq (r1 w) (r2 w) (r3 w) (r4 w))
  | 0x70 => .ok (.esign (imm12 w) (r1 w) (r2 w) (r3 w))
  | 0x71 => mustBeZero w (r1Field w) (.everify (r2 w) (r3 w) (imm12 w))
  | 0x72 => mustBeZero w (r3Field w) (.erecover (r1 w) (r2 w) (imm12 w))
  | op => .error (.unassignedOp op)

/-- The word with these five fields (30_encoding.md R64). -/
def pack (op x1 x2 x3 imm : Nat) : Word :=
  BitVec.ofNat 32 (op * 2 ^ 24 + x1 * 2 ^ 20 + x2 * 2 ^ 16 + x3 * 2 ^ 12 + imm)

/-- The word of an instruction, from the field columns of 30_encoding.md R67. -/
def encode : Instr → Word
  | .halt => pack 0x01 0 0 0 0
  | .jmp t => pack 0x02 0 0 0 t.toNat
  | .bt t => pack 0x03 0 0 0 t.toNat
  | .bf t => pack 0x04 0 0 0 t.toNat
  | .setk m => pack 0x05 0 0 0 m
  | .djnz t => pack 0x06 0 0 0 t.toNat
  | .nop => pack 0x07 0 0 0 0
  | .fld x1 m => pack 0x08 x1.val 0 0 m
  | .fst x2 m => pack 0x09 0 x2.val 0 m
  | .sld x1 m => pack 0x0A x1.val 0 0 m
  | .sst x2 m => pack 0x0B 0 x2.val 0 m
  | .fmov x1 x2 => pack 0x0C x1.val x2.val 0 0
  | .smov x1 x2 => pack 0x0D x1.val x2.val 0 0
  | .fseti x1 m => pack 0x0E x1.val 0 0 m
  | .sseti x1 m => pack 0x0F x1.val 0 0 m
  | .sfromf x1 x2 => pack 0x10 x1.val x2.val 0 0
  | .ffroms x1 x2 => pack 0x11 x1.val x2.val 0 0
  | .amov x1 x2 => pack 0x12 x1.val x2.val 0 0
  | .jmov x1 x2 => pack 0x13 x1.val x2.val 0 0
  | .fadd x1 x2 x3 => pack 0x20 x1.val x2.val x3.val 0
  | .fneg x1 x2 m => pack 0x21 x1.val x2.val 0 m
  | .fmul x1 x2 x3 => pack 0x22 x1.val x2.val x3.val 0
  | .fsqr x1 x2 => pack 0x23 x1.val x2.val 0 0
  | .fmulm x1 x2 x3 => pack 0x24 x1.val x2.val x3.val 0
  | .fnorm x1 x2 => pack 0x25 x1.val x2.val 0 0
  | .fnormv x1 x2 => pack 0x26 x1.val x2.val 0 0
  | .finv x1 x2 => pack 0x27 x1.val x2.val 0 0
  | .fsqrt x1 x2 => pack 0x28 x1.val x2.val 0 0
  | .fisz x2 => pack 0x29 0 x2.val 0 0
  | .fisodd x2 => pack 0x2A 0 x2.val 0 0
  | .feq x2 x3 => pack 0x2B 0 x2.val x3.val 0
  | .flt x2 x3 => pack 0x2C 0 x2.val x3.val 0
  | .sadd x1 x2 x3 => pack 0x30 x1.val x2.val x3.val 0
  | .sneg x1 x2 => pack 0x31 x1.val x2.val 0 0
  | .smul x1 x2 x3 => pack 0x32 x1.val x2.val x3.val 0
  | .smulm x1 x2 x3 => pack 0x33 x1.val x2.val x3.val 0
  | .sinv x1 x2 => pack 0x34 x1.val x2.val 0 0
  | .sisz x2 => pack 0x35 0 x2.val 0 0
  | .seq x2 x3 => pack 0x36 0 x2.val x3.val 0
  | .slt x2 x3 => pack 0x37 0 x2.val x3.val 0
  | .shigh x2 => pack 0x38 0 x2.val 0 0
  | .swnaf m x2 x3 => pack 0x39 0 x2.val x3 m
  | .psetxy x1 x2 x3 => pack 0x40 x1.val x2.val x3.val 0
  | .psetinf x1 => pack 0x41 x1.val 0 0 0
  | .pldg x1 => pack 0x42 x1.val 0 0 0
  | .pgetx x1 x2 => pack 0x43 x1.val x2.val 0 0
  | .pgety x1 x2 => pack 0x44 x1.val x2.val 0 0
  | .pvalid x2 => pack 0x45 0 x2.val 0 0
  | .pisinf x2 => pack 0x46 0 x2.val 0 0
  | .pneg x1 x2 => pack 0x47 x1.val x2.val 0 0
  | .jsetinf x1 => pack 0x48 x1.val 0 0 0
  | .jfroma x1 x2 => pack 0x49 x1.val x2.val 0 0
  | .jtoa x1 x2 => pack 0x4A x1.val x2.val 0 0
  | .jisinf x2 => pack 0x4B 0 x2.val 0 0
  | .jneg x1 x2 => pack 0x4C x1.val x2.val 0 0
  | .jdbl x1 x2 => pack 0x4D x1.val x2.val 0 0
  | .jadda x1 x2 x3 => pack 0x4E x1.val x2.val x3.val 0
  | .jadd x1 x2 x3 => pack 0x4F x1.val x2.val x3.val 0
  | .gctx => pack 0x60 0 0 0 0
  | .pmul x1 x2 x3 => pack 0x61 x1.val x2.val x3.val 0
  | .pmulg x1 x2 => pack 0x62 x1.val x2.val 0 0
  | .pmulgq x1 x2 x3 x4 => pack 0x63 x1.val x2.val x3.val x4.val
  | .esign m x1 x2 x3 => pack 0x70 x1.val x2.val x3.val m
  | .everify x2 x3 m => pack 0x71 0 x2.val x3.val m
  | .erecover x1 x2 m => pack 0x72 x1.val x2.val 0 m

/-- A row of the opcode table: a word w selects it when (w & mask) = match (30_encoding.md R67). -/
structure OpRow where
  name  : String
  value : Word
  mask  : Word
deriving DecidableEq, Repr

/-- The control rows of 30_encoding.md R67. -/
def controlRows : List OpRow := [
  ⟨"HALT", 0x01000000#32, 0xFFFFFFFF#32⟩,
  ⟨"JMP", 0x02000000#32, 0xFFFFF000#32⟩,
  ⟨"BT", 0x03000000#32, 0xFFFFF000#32⟩,
  ⟨"BF", 0x04000000#32, 0xFFFFF000#32⟩,
  ⟨"SETK", 0x05000000#32, 0xFFFFF000#32⟩,
  ⟨"DJNZ", 0x06000000#32, 0xFFFFF000#32⟩,
  ⟨"NOP", 0x07000000#32, 0xFFFFFFFF#32⟩]

/-- The move rows of 30_encoding.md R67. -/
def moveRows : List OpRow := [
  ⟨"FLD", 0x08000000#32, 0xFF0FF000#32⟩,
  ⟨"FST", 0x09000000#32, 0xFFF0F000#32⟩,
  ⟨"SLD", 0x0A000000#32, 0xFF0FF000#32⟩,
  ⟨"SST", 0x0B000000#32, 0xFFF0F000#32⟩,
  ⟨"FMOV", 0x0C000000#32, 0xFF00FFFF#32⟩,
  ⟨"SMOV", 0x0D000000#32, 0xFF00FFFF#32⟩,
  ⟨"FSETI", 0x0E000000#32, 0xFF0FF000#32⟩,
  ⟨"SSETI", 0x0F000000#32, 0xFF0FF000#32⟩,
  ⟨"SFROMF", 0x10000000#32, 0xFF00FFFF#32⟩,
  ⟨"FFROMS", 0x11000000#32, 0xFF00FFFF#32⟩,
  ⟨"AMOV", 0x12000000#32, 0xFF00FFFF#32⟩,
  ⟨"JMOV", 0x13000000#32, 0xFF00FFFF#32⟩]

/-- The field rows of 30_encoding.md R67. -/
def fieldRows : List OpRow := [
  ⟨"FADD", 0x20000000#32, 0xFF000FFF#32⟩,
  ⟨"FNEG", 0x21000000#32, 0xFF00F000#32⟩,
  ⟨"FMUL", 0x22000000#32, 0xFF000FFF#32⟩,
  ⟨"FSQR", 0x23000000#32, 0xFF00FFFF#32⟩,
  ⟨"FMULM", 0x24000000#32, 0xFF000FFF#32⟩,
  ⟨"FNORM", 0x25000000#32, 0xFF00FFFF#32⟩,
  ⟨"FNORMV", 0x26000000#32, 0xFF00FFFF#32⟩,
  ⟨"FINV", 0x27000000#32, 0xFF00FFFF#32⟩,
  ⟨"FSQRT", 0x28000000#32, 0xFF00FFFF#32⟩,
  ⟨"FISZ", 0x29000000#32, 0xFFF0FFFF#32⟩,
  ⟨"FISODD", 0x2A000000#32, 0xFFF0FFFF#32⟩,
  ⟨"FEQ", 0x2B000000#32, 0xFFF00FFF#32⟩,
  ⟨"FLT", 0x2C000000#32, 0xFFF00FFF#32⟩]

/-- The scalar rows of 30_encoding.md R67. -/
def scalarRows : List OpRow := [
  ⟨"SADD", 0x30000000#32, 0xFF000FFF#32⟩,
  ⟨"SNEG", 0x31000000#32, 0xFF00FFFF#32⟩,
  ⟨"SMUL", 0x32000000#32, 0xFF000FFF#32⟩,
  ⟨"SMULM", 0x33000000#32, 0xFF000FFF#32⟩,
  ⟨"SINV", 0x34000000#32, 0xFF00FFFF#32⟩,
  ⟨"SISZ", 0x35000000#32, 0xFFF0FFFF#32⟩,
  ⟨"SEQ", 0x36000000#32, 0xFFF00FFF#32⟩,
  ⟨"SLT", 0x37000000#32, 0xFFF00FFF#32⟩,
  ⟨"SHIGH", 0x38000000#32, 0xFFF0FFFF#32⟩,
  ⟨"SWNAF", 0x39000000#32, 0xFFF00000#32⟩]

/-- The group rows of 30_encoding.md R67. -/
def groupRows : List OpRow := [
  ⟨"PSETXY", 0x40000000#32, 0xFF000FFF#32⟩,
  ⟨"PSETINF", 0x41000000#32, 0xFF0FFFFF#32⟩,
  ⟨"PLDG", 0x42000000#32, 0xFF0FFFFF#32⟩,
  ⟨"PGETX", 0x43000000#32, 0xFF00FFFF#32⟩,
  ⟨"PGETY", 0x44000000#32, 0xFF00FFFF#32⟩,
  ⟨"PVALID", 0x45000000#32, 0xFFF0FFFF#32⟩,
  ⟨"PISINF", 0x46000000#32, 0xFFF0FFFF#32⟩,
  ⟨"PNEG", 0x47000000#32, 0xFF00FFFF#32⟩,
  ⟨"JSETINF", 0x48000000#32, 0xFF0FFFFF#32⟩,
  ⟨"JFROMA", 0x49000000#32, 0xFF00FFFF#32⟩,
  ⟨"JTOA", 0x4A000000#32, 0xFF00FFFF#32⟩,
  ⟨"JISINF", 0x4B000000#32, 0xFFF0FFFF#32⟩,
  ⟨"JNEG", 0x4C000000#32, 0xFF00FFFF#32⟩,
  ⟨"JDBL", 0x4D000000#32, 0xFF00FFFF#32⟩,
  ⟨"JADDA", 0x4E000000#32, 0xFF000FFF#32⟩,
  ⟨"JADD", 0x4F000000#32, 0xFF000FFF#32⟩]

/-- The multiply rows of 30_encoding.md R67. -/
def multiplyRows : List OpRow := [
  ⟨"GCTX", 0x60000000#32, 0xFFFFFFFF#32⟩,
  ⟨"PMUL", 0x61000000#32, 0xFF000FFF#32⟩,
  ⟨"PMULG", 0x62000000#32, 0xFF00FFFF#32⟩,
  ⟨"PMULGQ", 0x63000000#32, 0xFF000FF0#32⟩]

/-- The ecdsa rows of 30_encoding.md R67. -/
def ecdsaRows : List OpRow := [
  ⟨"ESIGN", 0x70000000#32, 0xFF000000#32⟩,
  ⟨"EVERIFY", 0x71000000#32, 0xFFF00000#32⟩,
  ⟨"ERECOVER", 0x72000000#32, 0xFF00F000#32⟩]

/-- The opcode table of 30_encoding.md R67, in its order. -/
def opcodeRows : List OpRow :=
  controlRows ++ moveRows ++ fieldRows ++ scalarRows ++ groupRows ++ multiplyRows ++ ecdsaRows

/-- The word selects the row (30_encoding.md R67). -/
def OpRow.selectedBy (r : OpRow) (w : Word) : Bool := (w &&& r.mask) == r.value

/-- What the decoder reads from an instruction of `nbits` bits whose value is `w` (bits above `nbits` are zero). -/
def decodeTableWord (nbits w : Nat) : Option Instr :=
  match decode (BitVec.ofNat 32 (w % 2 ^ nbits)) with
  | .ok i => some i
  | .error _ => none

end Sys2Proof
end

