-- ==== Sys2Proof/Config.lean ====
section
/-! DEFINITION. What this hardware fixes (the named constants of 00_scope.md R3-R6 and R10) and the values the
spec leaves free (opaque constants, without a body: nothing can be proved of what they are). -/

namespace Sys2Proof.Config

/-- The field prime p = 2^256 - 2^32 - 977 (00_scope.md R3). -/
def P_FIELD : Nat := 0xFFFFFFFFFFFFFFFFFFFFFFFFFFFFFFFFFFFFFFFFFFFFFFFFFFFFFFFEFFFFFC2F

/-- The curve order n (00_scope.md R5; the value is the spec's general knowledge, 93 K1). -/
def N_ORDER : Nat := 0xFFFFFFFFFFFFFFFFFFFFFFFFFFFFFFFEBAAEDCE6AF48A03BBFD25E8CD0364141

/-- The x coordinate of the generator (00_scope.md R6; 93 K2). -/
def GX : Nat := 0x79BE667EF9DCBBAC55A06295CE870B07029BFCDB2DCE28D959F2815B16F81798

/-- The y coordinate of the generator (00_scope.md R6; 93 K2). -/
def GY : Nat := 0x483ADA7726A3C4655DA4FBFC0E1108A8FD17B448A68554199C47D08FFB10D4B8

/-- The constant of the curve equation y^2 = x^3 + 7 (00_scope.md R4). -/
def CURVE_B : Nat := 7

/-- Registers in each of the four files (00_scope.md R10). -/
abbrev NREG : Nat := 16

/-- The largest magnitude a field register may hold (00_scope.md R10, 41_field.md R92). -/
def MAG_MAX : Nat := 32

/-- The largest magnitude of a multiplicative field input (00_scope.md R10, 41_field.md R92). -/
def MUL_MAG_MAX : Nat := 8

/-- Words in CMDMEM (00_scope.md R10). -/
def CMD_WORDS : Nat := 4096

/-- Bytes in DMEM (00_scope.md R10). -/
def DMEM_BYTES : Nat := 4096

/-- Bytes per DMEM slot (00_scope.md R10). -/
def SLOT_BYTES : Nat := 32

/-- The width of the loop counter K (00_scope.md R10); the type of K is Word12. -/
def K_BITS : Nat := 12

/-- The Montgomery radix (00_scope.md R10). -/
def R_MONT : Nat := 2 ^ 256

/-- The least accepted wNAF width of SWNAF (00_scope.md R10). -/
def W_MIN : Nat := 2

/-- The greatest accepted wNAF width of SWNAF (00_scope.md R10). -/
def W_MAX : Nat := 8

/-- How many signed digits a wNAF has (00_scope.md R20). -/
def WNAF_DIGITS : Nat := 257

/-- The ID register's constant, "SK1" and version 1 (10_state.md R36). -/
def ID_VALUE : Word := 0x534B3101#32

/-- The size of the host's window in bytes (20_memory.md R47). -/
def WINDOW_BYTES : Nat := 0x20000

/-- FREE. Which 128 KiB block of the bus address space the platform gives the core (00_scope.md R10 `BASE`; log 11). -/
opaque baseBlock : Nat

/-- The bus address of the window, a multiple of 0x20000 (20_memory.md R47; log 11). -/
def BASE : Nat := baseBlock * WINDOW_BYTES

/-- FREE. The window width of the generator table (00_scope.md R10 `W_GEN`, 93 U6; log 6). -/
opaque W_GEN : Nat

/-- FREE. The window width of the table that PMUL and PMULGQ build inside themselves (00_scope.md R10 `W_VAR`,
10_state.md R33, 93 U6; log 6). Nothing reads it. -/
opaque W_VAR : Nat

/-- FREE. What DMEM byte `addr` holds, unwritten, after power-up number `gen` (20_memory.md R52, 93 U1; log 3). -/
opaque dmemPowerUp : (gen addr : Nat) → Byte

/-- FREE. What CMDMEM word `index` holds, unwritten, after power-up number `gen` (20_memory.md R52, 93 U1; log 3). -/
opaque cmdmemPowerUp : (gen index : Nat) → Word

/-- FREE. The infinity choice of draw number `k` of `Draw(Point)` (00_scope.md R15, 43_group.md R116, 93 U3; log 5). -/
opaque drawIsInf : (k : Nat) → Bool

/-- FREE. The x coordinate of draw number `k`, before the spec's bound x < p (43_group.md R116; log 5). -/
opaque drawX : (k : Nat) → Nat

/-- FREE. The y coordinate of draw number `k`, before the spec's bound y < p (43_group.md R116; log 5). -/
opaque drawY : (k : Nat) → Nat

/-- One access inside an instruction: to an entry of an internal table, or to a byte of DMEM
(70_reset_and_hazards.md R165). -/
inductive Access where
  | table (entry : Nat)
  | dmem (addr : Nat)
deriving DecidableEq, Repr

/-- FREE. Cycles beyond the first of a constant-time instruction, by its opcode, its register numbers and its slot number
(70_reset_and_hazards.md R165, R166; log 14). -/
opaque latencyCT : (opcode : String) → (registers : List RegIdx) → (slot : Option Nat) → Nat

/-- FREE. Cycles beyond the first of a variable-time instruction, by its word and whatever its operand values
amount to (70_reset_and_hazards.md R165, R166; log 14). -/
opaque latencyVT : (w : Word) → (operands : Nat) → Nat

/-- FREE. The accesses inside a constant-time instruction, in order, by its opcode, its register numbers and its slot
number (70_reset_and_hazards.md R165; log 14). -/
opaque accessesCT : (opcode : String) → (registers : List RegIdx) → (slot : Option Nat) → List Access

/-- FREE. The accesses inside a variable-time instruction, in order, by its word and whatever its operand values amount
to (70_reset_and_hazards.md R165; log 14). -/
opaque accessesVT : (w : Word) → (operands : Nat) → List Access

end Sys2Proof.Config
end

