-- ==== Sys2Proof/Machine/State.lean ====
section
/-! DEFINITION. The state of the core as plain data (10_state.md, 20_memory.md), the reasons a step could stop, and
the state after a hard reset (70_reset_and_hazards.md R158). -/

namespace Sys2Proof.Machine

/-- A point of the curve's plane: infinity, or a pair of coordinates (00_scope.md R13, 10_state.md R27). -/
inductive Point where
  | inf
  | aff (x y : Nat)
deriving DecidableEq, Repr

/-- A field register (10_state.md R24). -/
structure FReg where
  /-- The stored representative. -/
  v : Nat
  /-- The magnitude: v < m * 2^256. -/
  m : Nat
  /-- The normalized flag. -/
  N : Bool
  /-- Written since the last reset (10_state.md R23). -/
  valid : Bool
deriving DecidableEq, Repr

/-- A scalar register (10_state.md R26). -/
structure SReg where
  v : Nat
  valid : Bool
deriving DecidableEq, Repr

/-- A point register, affine or Jacobian: the point it represents (10_state.md R27, R28). -/
structure PReg where
  pt : Point
  valid : Bool
deriving DecidableEq, Repr

/-- The run state of the engine (10_state.md R34). -/
inductive RunState where
  | idle
  | running
deriving DecidableEq, Repr

/-- The cause of a fault (60_exceptions.md R145). -/
inductive Cause where
  | none
  | illegal
  | uninit
  | addr
  | operand
  | notNormalized
  | magnitude
  | infinity
  | invZero
  | noContext
deriving DecidableEq, Repr

/-- A sparse memory: the cells written since power-up with what they hold, keys strictly rising. A key that is not
listed has not been written (20_memory.md R52; log 3). -/
abbrev Memory (α : Type) := List (Nat × α)

/-- What a bus access asks for (20_memory.md R48). -/
inductive BusOp where
  | read
  | write (data : Word)
deriving DecidableEq, Repr

/-- A host access: how many bytes wide, at which offset of the 128 KiB window (20_memory.md R47, R48). -/
structure BusAccess where
  op : BusOp
  bytes : Nat
  offset : BitVec 17
deriving DecidableEq, Repr

/-- What the core answers to a bus access: the data of a read, and the bus error (20_memory.md R48; log 10). -/
structure BusResponse where
  data : Word
  error : Bool
deriving DecidableEq, Repr

/-- One move of one agent (00_scope.md R9): a step of the engine, an access of a host, or the platform's hard reset
(70_reset_and_hazards.md R158). -/
inductive Move where
  | engine
  | host (a : BusAccess)
  | hardReset
deriving DecidableEq, Repr

/-- The state of the core. -/
structure State where
  /-- Field registers (10_state.md R22, R24). -/
  F : Vector FReg 16
  /-- Scalar registers (10_state.md R22, R26). -/
  S : Vector SReg 16
  /-- Affine point registers (10_state.md R22, R27). -/
  A : Vector PReg 16
  /-- Jacobian point registers (10_state.md R22, R28). -/
  J : Vector PReg 16
  /-- The condition flag (10_state.md R30). -/
  C : Bool
  /-- The loop counter (10_state.md R31). -/
  K : Word12
  /-- The program counter, a CMDMEM word index (10_state.md R29). -/
  pc : Word12
  /-- The generator-context bit (10_state.md R32). -/
  GCTX : Bool
  /-- The generator table memory (10_state.md R32; log 6). -/
  genTable : List Point
  /-- IDLE or RUNNING, STATUS.BUSY (10_state.md R34). -/
  run : RunState
  /-- STATUS.DONE (10_state.md R38). -/
  DONE : Bool
  /-- STATUS.FAULT (10_state.md R38). -/
  FAULT : Bool
  /-- STATUS.ACCERR (10_state.md R38). -/
  ACCERR : Bool
  /-- STATUS.CMDERR (10_state.md R38). -/
  CMDERR : Bool
  /-- CTRL.IRQ_EN (10_state.md R37). -/
  IRQ_EN : Bool
  /-- The ENTRY register (10_state.md R39). -/
  ENTRY : Word12
  /-- The CAUSE register (10_state.md R41). -/
  CAUSE : Cause
  /-- The FAULT_PC register (10_state.md R42). -/
  FAULT_PC : Word12
  /-- The command memory, by word index (20_memory.md R46). -/
  cmdmem : Memory Word
  /-- The data memory, by byte address (20_memory.md R46). -/
  dmem : List Host.Cell
  /-- MODEL. Points drawn so far; it indexes the free points (00_scope.md R15; log 5). -/
  draws : Nat
  /-- MODEL. Hard resets so far; it indexes what unwritten memory holds (20_memory.md R52; log 3). -/
  powerUps : Nat
  /-- MODEL. The moves of the agents still to come, next first (00_scope.md R9; log 1). -/
  inputs : List Move
  /-- MODEL. The answer to the latest bus access (20_memory.md R48; log 10). -/
  response : BusResponse
deriving DecidableEq, Repr

/-- Why a step would end in the outcome `fault`. There is no such reason: a fault of this core is a next state
(60_exceptions.md R143), and every move of every agent has an effect in the spec. -/
inductive Fault where
deriving DecidableEq, Repr

/-- Why a step would end in the outcome `refused`. -/
inductive Refusal where
  /-- Raised by an arm of exec whose instruction has no meaning yet (none is left). Safe: nothing can be proved of it. -/
  | notModelled (mnemonic : String)
deriving DecidableEq, Repr

/-- A field register that was never written: valid = 0; the contents are unreadable (10_state.md R45; log 4). -/
def FReg.unwritten : FReg := ⟨0, 1, false, false⟩

/-- A scalar register that was never written (10_state.md R45; log 4). -/
def SReg.unwritten : SReg := ⟨0, false⟩

/-- A point register that was never written (10_state.md R45; log 4). -/
def PReg.unwritten : PReg := ⟨.inf, false⟩

/-- The state after a hard reset (70_reset_and_hazards.md R158, 10_state.md R45). -/
def State.reset : State where
  F := Vector.replicate 16 FReg.unwritten
  S := Vector.replicate 16 SReg.unwritten
  A := Vector.replicate 16 PReg.unwritten
  J := Vector.replicate 16 PReg.unwritten
  C := false
  K := 0#12
  pc := 0#12
  GCTX := false
  genTable := []
  run := .idle
  DONE := false
  FAULT := false
  ACCERR := false
  CMDERR := false
  IRQ_EN := false
  ENTRY := 0#12
  CAUSE := .none
  FAULT_PC := 0#12
  cmdmem := []
  dmem := []
  draws := 0
  powerUps := 0
  inputs := []
  response := ⟨0#32, false⟩

end Sys2Proof.Machine
end

