-- ==== Sys2Proof/Machine/Arith.lean ====
section
/-! DEFINITION. Arithmetic mod p and mod n on exact naturals (00_scope.md R12, R17), the wNAF recoding (R20), and the
byte forms of operands (R14, R55). -/

namespace Sys2Proof.Machine

open Sys2Proof.Config

/-- `b ^ e mod m`, six bits of the exponent at a time; `fuel` bounds the depth (log 8). -/
def powAux (m : Nat) : (fuel b e : Nat) → Nat
  | 0, _, _ => 1 % m
  | fuel + 1, b, e =>
    if e = 0 then 1 % m else b ^ (e % 64) * powAux m fuel (b ^ 64 % m) (e / 64) % m

/-- `b ^ e mod m` (00_scope.md R12, R17; log 8). -/
def powMod (m b e : Nat) : Nat := powAux m e (b % m) e

/-- `inv_p(a)`, the x in [1, p) with a x = 1 mod p when a mod p is not 0 (00_scope.md R12; a power by Fermat, log 8). -/
def invP (a : Nat) : Nat := powMod P_FIELD a (P_FIELD - 2)

/-- `inv_n(a)`, which is a^(n-2) mod n (00_scope.md R12; 42_scalar.md R110; log 8). -/
def invN (a : Nat) : Nat := powMod N_ORDER a (N_ORDER - 2)

/-- `mont_p(a, b)` (00_scope.md R17). -/
def montP (a b : Nat) : Nat := a * b * invP (R_MONT % P_FIELD) % P_FIELD

/-- `mont_n(a, b)` (00_scope.md R17). -/
def montN (a b : Nat) : Nat := a * b * invN (R_MONT % N_ORDER) % N_ORDER

/-- `fsqrt_cand(a)` = a^((p+1)/4) mod p (00_scope.md R17). -/
def fsqrtCand (a : Nat) : Nat := powMod P_FIELD a ((P_FIELD + 1) / 4)

/-- `is_qr_root(a)`: the candidate squares back to a (00_scope.md R17). -/
def isQrRoot (a : Nat) : Bool := decide (fsqrtCand a ^ 2 % P_FIELD = a % P_FIELD)

/-- `(a - b) mod p`, the least non-negative residue (00_scope.md R12). -/
def subP (a b : Nat) : Nat := (a + (P_FIELD - b % P_FIELD)) % P_FIELD

/-- One digit of the wNAF of k: 0 for even k, else k mod 2^w read in [-2^(w-1), 2^(w-1)) (00_scope.md R20). -/
def wnafDigit (k w : Nat) : Int :=
  if k % 2 = 1 then
    if k % 2 ^ w ≥ 2 ^ (w - 1) then (k % 2 ^ w : Nat) - (2 ^ w : Nat) else (k % 2 ^ w : Nat)
  else 0

/-- What is left of k after its digit: (k - t) div 2 (00_scope.md R20). -/
def wnafRest (k w : Nat) : Nat := ((k : Int) - wnafDigit k w).toNat / 2

/-- The first `count` digits of the wNAF of k, the least significant first (00_scope.md R20). -/
def wnafDigits (w : Nat) : (count k : Nat) → List Int
  | 0, _ => []
  | count + 1, k => wnafDigit k w :: wnafDigits w count (wnafRest k w)

/-- `wnaf(k, w)`: 257 signed digits (00_scope.md R20). -/
def wnaf (k w : Nat) : List Int := wnafDigits w WNAF_DIGITS k

/-- The `nb` bytes of `v mod 2^(8 nb)`, the most significant first (00_scope.md R14, 20_memory.md R55). -/
def bytesBE (nb v : Nat) : List Byte :=
  (List.range nb).map fun i => BitVec.ofNat 8 (v / 256 ^ (nb - 1 - i))

/-- The value of bytes of which the first is the most significant (00_scope.md R14, 20_memory.md R55). -/
def valueBE (bs : List Byte) : Nat := bs.foldl (fun acc b => acc * 256 + b.toNat) 0

end Sys2Proof.Machine
end

