-- ==== Sys2Proof/Machine/Curve.lean ====
section
/-! DEFINITION. The group law on points (00_scope.md R18), multiples of a point, the generator and its table
(44_multiply.md R133), and the draw of a free point (00_scope.md R15). -/

namespace Sys2Proof.Machine

open Sys2Proof.Config

/-- The generator G (00_scope.md R6). -/
def Point.gen : Point := .aff GX GY

/-- `OnCurve` (00_scope.md R18). -/
def Point.onCurve : Point → Bool
  | .inf => true
  | .aff x y => decide (y ^ 2 % P_FIELD = (x ^ 3 + CURVE_B) % P_FIELD)

/-- `Valid`: on the curve and not infinity (00_scope.md R18). -/
def Point.isValid (Q : Point) : Bool := decide (Q ≠ .inf) && Q.onCurve

/-- Both coordinates are reduced residues (10_state.md R27). -/
def Point.reduced : Point → Bool
  | .inf => true
  | .aff x y => decide (x < P_FIELD) && decide (y < P_FIELD)

/-- `Neg` (00_scope.md R18). -/
def Point.neg : Point → Point
  | .inf => .inf
  | .aff x y => .aff x ((P_FIELD - y) % P_FIELD)

/-- The third point of a line of slope l through (x1, y1) and a point with abscissa x2, mirrored (00_scope.md R18). -/
def chord (l x1 y1 x2 : Nat) : Point :=
  let x3 := subP (l ^ 2) (x1 + x2)
  .aff x3 (subP (l * subP x1 x3) y1)

/-- `Dbl` (00_scope.md R18). -/
def Point.dbl : Point → Point
  | .inf => .inf
  | .aff x y => if y = 0 then .inf else chord (3 * x ^ 2 * invP (2 * y) % P_FIELD) x y x

/-- `Add` (00_scope.md R18). -/
def Point.add : Point → Point → Point
  | .inf, Q => Q
  | .aff x y, .inf => .aff x y
  | .aff x1 y1, .aff x2 y2 =>
    if x1 = x2 then (if y1 = y2 then Point.dbl (.aff x1 y1) else .inf)
    else chord (subP y2 y1 * invP (subP x2 x1) % P_FIELD) x1 y1 x2

/-- `Mul(k, P)` as 00_scope.md R18 writes it: P added k times. -/
def Point.mulSpec : Nat → Point → Point
  | 0, _ => .inf
  | k + 1, Q => Point.add (Point.mulSpec k Q) Q

/-- A multiple by doubling and adding, from the least significant bit of k; `fuel` bounds the depth. -/
def Point.mulAux : (fuel k : Nat) → Point → Point
  | 0, _, _ => .inf
  | fuel + 1, k, Q =>
    if k = 0 then .inf
    else if k % 2 = 1 then Point.add Q (Point.mulAux fuel (k / 2) (Point.dbl Q))
    else Point.mulAux fuel (k / 2) (Point.dbl Q)

/-- `Mul(k, P)` for points of the curve: the double-and-add computation, which agrees there with `mulSpec`
(00_scope.md R18, 44_multiply.md R137; log 7). -/
def Point.mul (k : Nat) (Q : Point) : Point := Point.mulAux k k Q

/-- The generator table: the odd multiples j*G with j at most 2^(w-1) - 1 (44_multiply.md R133). -/
def oddMultiples (w : Nat) : List Point :=
  ((List.range (2 ^ (w - 1))).filter fun j => j % 2 == 1).map fun j => Point.mul j Point.gen

/-- Draw number k of `Draw(Point)`: any point, with coordinates in [0, p), not constrained further
(00_scope.md R15, 43_group.md R116; log 5). -/
def drawnPoint (k : Nat) : Point :=
  if drawIsInf k then .inf else .aff (drawX k % P_FIELD) (drawY k % P_FIELD)

/-- The combined multiply a*G + b*Q (44_multiply.md R136). -/
def combined (a b : Nat) (Q : Point) : Point := Point.add (Point.mul a Point.gen) (Point.mul b Q)

end Sys2Proof.Machine
end

