-- ==== Sys2Proof/Machine/Ops.lean ====
section
/-! DEFINITION. The named operations over registers and memories, fault entry (60_exceptions.md R143), and the frame
of an instruction: a check phase that may raise one fault, then a commit phase (00_scope.md R16). -/

namespace Sys2Proof.Machine

open Sys2Proof.Config

/-! ### Memory -/

/-- What cell `a` holds, `none` while nothing has written it (20_memory.md R52). -/
def Memory.get {α : Type} : Memory α → Nat → Option α
  | [], _ => none
  | (b, v) :: rest, a => if b = a then some v else Memory.get rest a

/-- The cells from `a` up that hold the listed values. -/
def Memory.block {α : Type} : Nat → List α → Memory α
  | _, [] => []
  | a, v :: vs => (a, v) :: Memory.block (a + 1) vs

/-- Write consecutive cells from `a` up. -/
def Memory.write {α : Type} (m : Memory α) (a : Nat) (vs : List α) : Memory α :=
  m.filter (fun c => decide (c.1 < a)) ++ Memory.block a vs
    ++ m.filter (fun c => decide (a + vs.length ≤ c.1))

/-- The canonical form: keys strictly rising, every key below `size` (log 3). -/
def Memory.wf {α : Type} (size : Nat) : Memory α → Bool
  | [] => true
  | [c] => decide (c.1 < size)
  | c :: d :: rest => decide (c.1 < d.1) && Memory.wf size (d :: rest)

namespace State

/-- `ByteRead(addr)`: the byte last written, or the free value it has held since power-up
(00_scope.md R14, 20_memory.md R52). -/
def readByte (s : State) (addr : Nat) : Byte :=
  match Memory.get s.dmem addr with
  | some b => b
  | none => dmemPowerUp s.powerUps addr

/-- CMDMEM word j: the word last written, or the free value it has held since power-up (20_memory.md R52). -/
def readCmd (s : State) (j : Nat) : Word :=
  match Memory.get s.cmdmem j with
  | some w => w
  | none => cmdmemPowerUp s.powerUps j

/-- The word the engine fetches next (40_control.md R72). -/
def fetch (s : State) : Word := s.readCmd s.pc.toNat

/-- `MemRead(addr, nb)`, big-endian (00_scope.md R14). -/
def memRead (s : State) (addr nb : Nat) : Nat :=
  valueBE ((List.range nb).map fun i => s.readByte (addr + i))

/-- Store consecutive bytes in DMEM. -/
def writeBytes (s : State) (addr : Nat) (bs : List Byte) : State :=
  { s with dmem := Memory.write s.dmem addr bs }

/-- `MemWrite(addr, nb, v)`, big-endian (00_scope.md R14). -/
def memWrite (s : State) (addr nb v : Nat) : State := s.writeBytes addr (bytesBE nb v)

/-- Store one word in CMDMEM (20_memory.md R50). -/
def writeCmd (s : State) (j : Nat) (w : Word) : State :=
  { s with cmdmem := Memory.write s.cmdmem j [w] }

/-! ### Registers -/

/-- `F[i] <- (v, m, N)`, which also sets valid (00_scope.md R13). -/
def writeF (s : State) (i : RegIdx) (v m : Nat) (N : Bool) : State :=
  { s with F := s.F.set i.val ⟨v, m, N, true⟩ i.isLt }

/-- `S[i] <- v`, which also sets valid (00_scope.md R13). -/
def writeS (s : State) (i : RegIdx) (v : Nat) : State :=
  { s with S := s.S.set i.val ⟨v, true⟩ i.isLt }

/-- `A[i] <- P`, which also sets valid (00_scope.md R13). -/
def writeA (s : State) (i : RegIdx) (Q : Point) : State :=
  { s with A := s.A.set i.val ⟨Q, true⟩ i.isLt }

/-- `J[i] <- P`, which also sets valid (00_scope.md R13). -/
def writeJ (s : State) (i : RegIdx) (Q : Point) : State :=
  { s with J := s.J.set i.val ⟨Q, true⟩ i.isLt }

/-- `C <- b` (10_state.md R30). -/
def writeC (s : State) (b : Bool) : State := { s with C := b }

/-- `K <- k` (10_state.md R31). -/
def writeK (s : State) (k : Word12) : State := { s with K := k }

/-- `pc <- target` (00_scope.md R13). -/
def goto (s : State) (t : Word12) : State := { s with pc := t }

/-- `pc <- next`, that is (pc + 1) mod 4096 (10_state.md R29). -/
def advance (s : State) : State := s.goto (s.pc + 1)

/-- `J[i] <- Draw(Point)`: a point the model does not determine, fresh at each draw (00_scope.md R15, 43_group.md R116). -/
def drawJ (s : State) (i : RegIdx) : State :=
  { s.writeJ i (drawnPoint s.draws) with draws := s.draws + 1 }

/-- `J[i] <- P` when every point operand is on the curve, and `J[i] <- Draw(Point)` otherwise (43_group.md R116). -/
def writeGroup (s : State) (i : RegIdx) (known : Bool) (Q : Point) : State :=
  if known then s.writeJ i Q else s.drawJ i

/-- Build the generator table unless it is built, and set GCTX (44_multiply.md R133). -/
def buildContext (s : State) : State :=
  { s with genTable := if s.GCTX then s.genTable else oddMultiples W_GEN, GCTX := true }

/-! ### Run control, faults -/

/-- HALT's effect: the run ends, DONE is set, pc stays (40_control.md R73). -/
def endRun (s : State) : State := { s with run := .idle, DONE := true }

/-- Fault entry: the run ends, FAULT is set, CAUSE and FAULT_PC are recorded, pc stays (60_exceptions.md R143). -/
def takeFault (s : State) (c : Cause) : State :=
  { s with run := .idle, FAULT := true, CAUSE := c, FAULT_PC := s.pc }

/-- The START command (10_state.md R44). The ISA has no trap return: this is how a host goes on (60_exceptions.md R148). -/
def start (s : State) : State :=
  match s.run with
  | .running => { s with CMDERR := true }
  | .idle =>
    { s with pc := s.ENTRY, DONE := false, FAULT := false, CAUSE := .none, FAULT_PC := 0#12, run := .running }

/-- Soft reset: every element at its hard-reset value but CMDMEM, DMEM and ENTRY (70_reset_and_hazards.md R159). The
model's own fields go on (log 12). -/
def softReset (s : State) : State :=
  { State.reset with
    cmdmem := s.cmdmem, dmem := s.dmem, ENTRY := s.ENTRY
    draws := s.draws, powerUps := s.powerUps, inputs := s.inputs, response := s.response }

/-- Hard reset: the state of 70_reset_and_hazards.md R158; what the memories then hold is drawn anew
(20_memory.md R52). The model's own fields go on (log 12). -/
def hardReset (s : State) : State :=
  { State.reset with
    draws := s.draws, powerUps := s.powerUps + 1, inputs := s.inputs, response := s.response }

end State

/-! ### The frame of an instruction -/

/-- `if bad then raise Fault(c)`, one line of a check phase (00_scope.md R15). -/
def raiseIf (c : Cause) (bad : Bool) : Except Cause Unit := if bad then .error c else .ok ()

/-- Run an instruction: its check phase either raises a fault, which is taken with nothing written, or answers the
state its commit phase leaves (00_scope.md R16, 60_exceptions.md R143). -/
def settle (s : State) (r : Except Cause State) : Host.Outcome State Fault Refusal :=
  match r with
  | .ok t => .next t
  | .error c => .next (s.takeFault c)

end Sys2Proof.Machine
end

