-- ==== Sys2Proof/Machine/Operands.lean ====
section
/-! DEFINITION. Operands as the check phases read and check them: registers of the four files (00_scope.md R13),
slots (20_memory.md R54), immediates (30_encoding.md R66), magnitudes (41_field.md R92), tags (10_state.md R25). -/

namespace Sys2Proof.Machine

open Sys2Proof.Config

/-! ### Register operands -/

/-- `rdF(i)` (00_scope.md R13). -/
def rdF (s : State) (i : RegIdx) : Except Cause FReg :=
  if s.F[i].valid then .ok s.F[i] else .error .uninit

/-- `rdS(i).v` (00_scope.md R13). -/
def rdS (s : State) (i : RegIdx) : Except Cause Nat :=
  if s.S[i].valid then .ok s.S[i].v else .error .uninit

/-- `rdA(i).pt` (00_scope.md R13). -/
def rdA (s : State) (i : RegIdx) : Except Cause Point :=
  if s.A[i].valid then .ok s.A[i].pt else .error .uninit

/-- `rdJ(i).pt` (00_scope.md R13). -/
def rdJ (s : State) (i : RegIdx) : Except Cause Point :=
  if s.J[i].valid then .ok s.J[i].pt else .error .uninit

/-! ### Checks -/

/-- The highest slot of FLD, SLD, FST and SST (20_memory.md R54). -/
def slotLimit32 : Nat := 127

/-- The highest slot of EVERIFY, which reads 64 bytes (20_memory.md R54). -/
def slotLimit64 : Nat := 126

/-- The highest slot of ESIGN and ERECOVER, which touch 65 bytes (20_memory.md R54). -/
def slotLimit65 : Nat := 125

/-- The highest slot of SWNAF, which writes 257 bytes (20_memory.md R54). -/
def slotLimit257 : Nat := 119

/-- The slot check of 20_memory.md R54. -/
def checkSlot (limit slot : Nat) : Except Cause Unit := raiseIf .addr (decide (slot > limit))

/-- The byte address at which a slot starts (20_memory.md R53). -/
def slotAddr (slot : Nat) : Nat := SLOT_BYTES * slot

/-- FNEG's magnitude bound must be in 1..31 (41_field.md R94). -/
def checkBound (bound : Nat) : Except Cause Unit := raiseIf .operand (decide (bound < 1 ∨ bound > 31))

/-- SWNAF's width must be in 2..8 (42_scalar.md R115). -/
def checkWidth (w : Nat) : Except Cause Unit := raiseIf .operand (decide (w < W_MIN ∨ w > W_MAX))

/-- An operand that must be normalized (10_state.md R25). -/
def checkNormalized (x : FReg) : Except Cause Unit := raiseIf .notNormalized (!x.N)

/-- A multiplicative field operand (41_field.md R92). -/
def checkMulMagnitude (x : FReg) : Except Cause Unit := raiseIf .magnitude (decide (x.m > MUL_MAG_MAX))

/-- The generator table must be built (10_state.md R32). -/
def checkContext (s : State) : Except Cause Unit := raiseIf .noContext (!s.GCTX)

/-- The coordinates of a point, which infinity does not have (43_group.md R120, R121). -/
def coordinates : Point → Except Cause (Nat × Nat)
  | .inf => .error .infinity
  | .aff x y => .ok (x, y)

end Sys2Proof.Machine
end

