-- ==== Sys2Proof/Machine/Flags.lean ====
section
/-! DEFINITION. What is computed into the condition flag C (10_state.md R30), and the host's views of the status and
control bits (10_state.md R37, R38; 60_exceptions.md R145, R149). -/

namespace Sys2Proof.Machine

open Sys2Proof.Config

/-! ### The condition flag -/

/-- The field overflow report: the value is at least p (40_control.md R80). -/
def fieldOverflow (v : Nat) : Bool := decide (v ≥ P_FIELD)

/-- The scalar overflow report: the value is at least n (40_control.md R82, R90). -/
def scalarOverflow (v : Nat) : Bool := decide (v ≥ N_ORDER)

/-- Zero test (41_field.md R102, 42_scalar.md R111). -/
def isZero (v : Nat) : Bool := decide (v = 0)

/-- Parity test (41_field.md R103). -/
def isOdd (v : Nat) : Bool := decide (v % 2 = 1)

/-- Equality test (41_field.md R104, 42_scalar.md R112). -/
def isEqual (x y : Nat) : Bool := decide (x = y)

/-- Order test (41_field.md R105, 42_scalar.md R113). -/
def isLess (x y : Nat) : Bool := decide (x < y)

/-- High-half test (42_scalar.md R114). -/
def isHigh (v : Nat) : Bool := decide (v > (N_ORDER - 1) / 2)

/-- Infinity test (43_group.md R123, R128). -/
def isInfinity (Q : Point) : Bool := decide (Q = .inf)

/-! ### Codes and lines -/

/-- The cause code (60_exceptions.md R145). -/
def Cause.code : Cause → Byte
  | .none => 0#8
  | .illegal => 1#8
  | .uninit => 2#8
  | .addr => 3#8
  | .operand => 4#8
  | .notNormalized => 5#8
  | .magnitude => 6#8
  | .infinity => 7#8
  | .invZero => 8#8
  | .noContext => 9#8

/-- STATUS.BUSY: 1 while the engine is RUNNING (10_state.md R34, R38). -/
def State.busy (s : State) : Bool := decide (s.run = .running)

/-- The interrupt output (60_exceptions.md R149). -/
def State.irq (s : State) : Bool := s.IRQ_EN && (s.DONE || s.FAULT)

/-! ### Register views -/

/-- A flag as a register bit. -/
def flagBit (b : Bool) (i : Nat) : Nat := if b then 2 ^ i else 0

/-- The STATUS register (10_state.md R38). -/
def State.statusWord (s : State) : Word :=
  BitVec.ofNat 32 (flagBit s.busy 0 + flagBit s.DONE 1 + flagBit s.FAULT 2 + flagBit s.C 3 + flagBit s.GCTX 4
    + flagBit s.ACCERR 5 + flagBit s.CMDERR 6 + flagBit s.irq 7)

/-- The CTRL register: IRQ_EN in bit 1; START and SOFT_RESET read 0 (10_state.md R37). -/
def State.ctrlWord (s : State) : Word := BitVec.ofNat 32 (flagBit s.IRQ_EN 1)

/-- A write to STATUS: a 1 clears DONE, FAULT, ACCERR, CMDERR, each by its own bit (10_state.md R38). -/
def State.writeStatus (s : State) (v : Word) : State :=
  { s with
    DONE := s.DONE && !v.getLsbD 1
    FAULT := s.FAULT && !v.getLsbD 2
    ACCERR := s.ACCERR && !v.getLsbD 5
    CMDERR := s.CMDERR && !v.getLsbD 6 }

/-- A write to CTRL: SOFT_RESET wins over the rest of the write; otherwise IRQ_EN takes bit 1 and a 1 in START issues
the command (10_state.md R37; log 13). -/
def State.writeCtrl (s : State) (v : Word) : State :=
  if v.getLsbD 2 then s.softReset
  else if v.getLsbD 0 then { s with IRQ_EN := v.getLsbD 1 }.start
  else { s with IRQ_EN := v.getLsbD 1 }

end Sys2Proof.Machine
end

