-- ==== Sys2Proof/Machine/Control.lean ====
section
/-! DEFINITION. The control instructions (40_control.md R73-R79). -/

namespace Sys2Proof.Machine

open Sys2Proof.Config

/-- HALT: stop the run (40_control.md R73). -/
def execHalt (s : State) : Host.Outcome State Fault Refusal :=
  settle s do
    return s.endRun

/-- JMP t (40_control.md R74). -/
def execJmp (t : Word12) (s : State) : Host.Outcome State Fault Refusal :=
  settle s do
    return s.goto t

/-- BT t: branch if C is set (40_control.md R75). -/
def execBt (t : Word12) (s : State) : Host.Outcome State Fault Refusal :=
  settle s do
    return if s.C then s.goto t else s.advance

/-- BF t: branch if C is clear (40_control.md R76). -/
def execBf (t : Word12) (s : State) : Host.Outcome State Fault Refusal :=
  settle s do
    return if s.C then s.advance else s.goto t

/-- SETK #i: set the loop counter (40_control.md R77). -/
def execSetk (i : Nat) (s : State) : Host.Outcome State Fault Refusal :=
  settle s do
    return (s.writeK (BitVec.ofNat 12 i)).advance

/-- DJNZ t: decrement K mod 4096 and branch while it is nonzero (40_control.md R78). -/
def execDjnz (t : Word12) (s : State) : Host.Outcome State Fault Refusal :=
  settle s do
    let counted := s.writeK (s.K - 1)
    return if counted.K = 0 then counted.advance else counted.goto t

/-- NOP (40_control.md R79). -/
def execNop (s : State) : Host.Outcome State Fault Refusal :=
  settle s do
    return s.advance

end Sys2Proof.Machine
end

