-- ==== Sys2Proof/Machine/Ecdsa.lean ====
section
/-! DEFINITION. The ECDSA instructions: sign, verify and recover (45_ecdsa.md R138-R142). -/

namespace Sys2Proof.Machine

open Sys2Proof.Config

/-- What ESIGN writes: r, s and the recovery id (45_ecdsa.md R138). -/
structure Signature where
  r : Nat
  s : Nat
  recid : Nat
deriving DecidableEq, Repr

/-- Step 5 of sign: the low member of s and n - s, the parity flipped with it (45_ecdsa.md R140); the recovery id is
2*ovf + par (R139). -/
def lowS (r sv ovf par : Nat) : Signature :=
  if sv > (N_ORDER - 1) / 2 then ⟨r, N_ORDER - sv, 2 * ovf + (1 - par)⟩ else ⟨r, sv, 2 * ovf + par⟩

/-- Steps 2 to 5 of sign for the ephemeral point (x, y); `none` is a Retry (45_ecdsa.md R140). -/
def signAt (hv dv kv x y : Nat) : Option Signature :=
  let r := x % N_ORDER
  let sv := invN kv * (hv + r * dv) % N_ORDER
  if r = 0 then none
  else if sv = 0 then none
  else some (lowS r sv (if x ≥ N_ORDER then 1 else 0) (y % 2))

/-- The commit phase of ESIGN: the signature of hash hv under key dv with nonce kv; `none` is a Retry (45_ecdsa.md R140). -/
def ecdsaSign (hv dv kv : Nat) : Option Signature :=
  match Point.gen.mul kv with
  | .inf => none
  | .aff x y => signAt hv dv kv x y

/-- r and s of a signature are in [1, n) (45_ecdsa.md R141, R142). -/
def inScalarRange (r sv : Nat) : Bool := decide (r ≠ 0 ∧ r < N_ORDER ∧ sv ≠ 0 ∧ sv < N_ORDER)

/-- The x coordinate of the point, mod n, is r; infinity never matches (45_ecdsa.md R141). -/
def xMatches (r : Nat) : Point → Bool
  | .inf => false
  | .aff x _ => decide (x % N_ORDER = r)

/-- The value EVERIFY writes to C: the signature (r, sv) of hash hv is valid under key Q
(45_ecdsa.md R141). -/
def ecdsaVerify (Q : Point) (hv r sv : Nat) : Bool :=
  inScalarRange r sv && Q.isValid &&
    xMatches r (combined (hv * invN sv % N_ORDER) (r * invN sv % N_ORDER) Q)

/-- The ephemeral point of abscissa x with ordinate parity `par`, if x is on the curve (45_ecdsa.md R142). -/
def liftX (x par : Nat) : Option Point :=
  let c := (x ^ 3 + CURVE_B) % P_FIELD
  let y := fsqrtCand c
  if y ^ 2 % P_FIELD ≠ c then none
  else if y % 2 ≠ par then some (.aff x (P_FIELD - y)) else some (.aff x y)

/-- The key r^-1 (s*R - h*G) for the ephemeral point R; `none` when it is infinity (45_ecdsa.md R142). -/
def recoverKey (hv r sv : Nat) (Rp : Point) : Option Point :=
  match combined ((N_ORDER - hv) * invN r % N_ORDER) (sv * invN r % N_ORDER) Rp with
  | .inf => none
  | .aff x y => some (.aff x y)

/-- The commit phase of ERECOVER: the key recovered from (r, sv, rid) and hash hv; `none` is RecoveryFailed
(45_ecdsa.md R142). -/
def ecdsaRecover (hv r sv rid : Nat) : Option Point :=
  if rid > 3 then none
  else if !inScalarRange r sv then none
  else if r + rid / 2 * N_ORDER ≥ P_FIELD then none
  else
    match liftX (r + rid / 2 * N_ORDER) (rid % 2) with
    | none => none
    | some Rp => recoverKey hv r sv Rp

/-- The 65 bytes of a recoverable signature (45_ecdsa.md R138). -/
def Signature.bytes (sig : Signature) : List Byte :=
  bytesBE 32 sig.r ++ bytesBE 32 sig.s ++ [BitVec.ofNat 8 sig.recid]

/-- Write the outcome of sign: the buffer and C = 1, or C = 0 and no byte (45_ecdsa.md R140). -/
def State.writeSignature (s : State) (slot : Nat) : Option Signature → State
  | none => s.writeC false
  | some sig => (s.writeBytes (slotAddr slot) sig.bytes).writeC true

/-- Write the outcome of recover: the key and C = 1, or C = 0 and no register (45_ecdsa.md R142). -/
def State.writeRecovered (s : State) (d : RegIdx) : Option Point → State
  | none => s.writeC false
  | some Q => (s.writeA d Q).writeC true

/-- ESIGN @s, Sh, Sd, Sk (45_ecdsa.md R140). -/
def execEsign (slot : Nat) (h d k : RegIdx) (s : State) : Host.Outcome State Fault Refusal :=
  settle s do
    checkSlot slotLimit65 slot
    let hv ← rdS s h
    let dv ← rdS s d
    let kv ← rdS s k
    checkContext s
    return (s.writeSignature slot (ecdsaSign hv dv kv)).advance

/-- EVERIFY Aq, Sh, @s; r and s are read raw, not reduced (45_ecdsa.md R141). -/
def execEverify (q h : RegIdx) (slot : Nat) (s : State) : Host.Outcome State Fault Refusal :=
  settle s do
    checkSlot slotLimit64 slot
    let Q ← rdA s q
    let hv ← rdS s h
    checkContext s
    let r := s.memRead (slotAddr slot) 32
    let sv := s.memRead (slotAddr slot + 32) 32
    return (s.writeC (ecdsaVerify Q hv r sv)).advance

/-- ERECOVER Ad, Sh, @s (45_ecdsa.md R142). -/
def execErecover (d h : RegIdx) (slot : Nat) (s : State) : Host.Outcome State Fault Refusal :=
  settle s do
    checkSlot slotLimit65 slot
    let hv ← rdS s h
    checkContext s
    let r := s.memRead (slotAddr slot) 32
    let sv := s.memRead (slotAddr slot + 32) 32
    let rid := (s.readByte (slotAddr slot + 64)).toNat
    return (s.writeRecovered d (ecdsaRecover hv r sv rid)).advance

end Sys2Proof.Machine
end

