-- ==== Sys2Proof/Machine/Field.lean ====
section
/-! DEFINITION. The field instructions, arithmetic mod p (41_field.md R92-R105). -/

namespace Sys2Proof.Machine

open Sys2Proof.Config

/-- FADD Fd, Fa, Fb: add without reduction; the magnitudes add (41_field.md R93). -/
def execFadd (d a b : RegIdx) (s : State) : Host.Outcome State Fault Refusal :=
  settle s do
    let x ← rdF s a
    let y ← rdF s b
    raiseIf .magnitude (decide (x.m + y.m > MAG_MAX))
    return (s.writeF d (x.v + y.v) (x.m + y.m) false).advance

/-- FNEG Fd, Fa, #M: (M+1)*p - v with magnitude M+1 (41_field.md R94). -/
def execFneg (d a : RegIdx) (bound : Nat) (s : State) : Host.Outcome State Fault Refusal :=
  settle s do
    checkBound bound
    let x ← rdF s a
    raiseIf .magnitude (decide (x.m > bound))
    return (s.writeF d ((bound + 1) * P_FIELD - x.v) (bound + 1) false).advance

/-- FMUL Fd, Fa, Fb: multiply mod p (41_field.md R95). -/
def execFmul (d a b : RegIdx) (s : State) : Host.Outcome State Fault Refusal :=
  settle s do
    let x ← rdF s a
    let y ← rdF s b
    checkMulMagnitude x
    checkMulMagnitude y
    return (s.writeF d (x.v * y.v % P_FIELD) 1 false).advance

/-- FSQR Fd, Fa: square mod p (41_field.md R96). -/
def execFsqr (d a : RegIdx) (s : State) : Host.Outcome State Fault Refusal :=
  settle s do
    let x ← rdF s a
    checkMulMagnitude x
    return (s.writeF d (x.v * x.v % P_FIELD) 1 false).advance

/-- FMULM Fd, Fa, Fb: Montgomery multiply mod p (41_field.md R97). -/
def execFmulm (d a b : RegIdx) (s : State) : Host.Outcome State Fault Refusal :=
  settle s do
    let x ← rdF s a
    let y ← rdF s b
    checkMulMagnitude x
    checkMulMagnitude y
    return (s.writeF d (montP x.v y.v) 1 false).advance

/-- FNORM Fd, Fa: the canonical representative, in constant time (41_field.md R98). -/
def execFnorm (d a : RegIdx) (s : State) : Host.Outcome State Fault Refusal :=
  settle s do
    let x ← rdF s a
    return (s.writeF d (x.v % P_FIELD) 1 true).advance

/-- FNORMV Fd, Fa: the canonical representative, in variable time (41_field.md R99; 90_conflicts.md C3). -/
def execFnormv (d a : RegIdx) (s : State) : Host.Outcome State Fault Refusal :=
  settle s do
    let x ← rdF s a
    return (s.writeF d (x.v % P_FIELD) 1 true).advance

/-- FINV Fd, Fa: the power p-2 of the residue (41_field.md R100). -/
def execFinv (d a : RegIdx) (s : State) : Host.Outcome State Fault Refusal :=
  settle s do
    let x ← rdF s a
    checkMulMagnitude x
    raiseIf .invZero (decide (x.v % P_FIELD = 0))
    return (s.writeF d (powMod P_FIELD (x.v % P_FIELD) (P_FIELD - 2)) 1 false).advance

/-- FSQRT Fd, Fa: the candidate root when it squares back, else C = 0 and Fd keeps its value (41_field.md R101). -/
def execFsqrt (d a : RegIdx) (s : State) : Host.Outcome State Fault Refusal :=
  settle s do
    let x ← rdF s a
    checkMulMagnitude x
    return if isQrRoot (x.v % P_FIELD) then ((s.writeF d (fsqrtCand (x.v % P_FIELD)) 1 false).writeC true).advance
      else (s.writeC false).advance

/-- FISZ Fa: zero test (41_field.md R102). -/
def execFisz (a : RegIdx) (s : State) : Host.Outcome State Fault Refusal :=
  settle s do
    let x ← rdF s a
    checkNormalized x
    return (s.writeC (isZero x.v)).advance

/-- FISODD Fa: parity test (41_field.md R103). -/
def execFisodd (a : RegIdx) (s : State) : Host.Outcome State Fault Refusal :=
  settle s do
    let x ← rdF s a
    checkNormalized x
    return (s.writeC (isOdd x.v)).advance

/-- FEQ Fa, Fb (41_field.md R104). -/
def execFeq (a b : RegIdx) (s : State) : Host.Outcome State Fault Refusal :=
  settle s do
    let x ← rdF s a
    let y ← rdF s b
    checkNormalized x
    checkNormalized y
    return (s.writeC (isEqual x.v y.v)).advance

/-- FLT Fa, Fb (41_field.md R105). -/
def execFlt (a b : RegIdx) (s : State) : Host.Outcome State Fault Refusal :=
  settle s do
    let x ← rdF s a
    let y ← rdF s b
    checkNormalized x
    checkNormalized y
    return (s.writeC (isLess x.v y.v)).advance

end Sys2Proof.Machine
end

