-- ==== Sys2Proof/Machine/Group.lean ====
section
/-! DEFINITION. The group instructions (43_group.md R116-R132). -/

namespace Sys2Proof.Machine

open Sys2Proof.Config

/-- PSETXY Ad, Fa, Fb: a point from two field elements, reduced, without a curve check (43_group.md R117). -/
def execPsetxy (d a b : RegIdx) (s : State) : Host.Outcome State Fault Refusal :=
  settle s do
    let x ← rdF s a
    let y ← rdF s b
    return (s.writeA d (.aff (x.v % P_FIELD) (y.v % P_FIELD))).advance

/-- PSETINF Ad (43_group.md R118). -/
def execPsetinf (d : RegIdx) (s : State) : Host.Outcome State Fault Refusal :=
  settle s do
    return (s.writeA d .inf).advance

/-- PLDG Ad: load the generator (43_group.md R119). -/
def execPldg (d : RegIdx) (s : State) : Host.Outcome State Fault Refusal :=
  settle s do
    return (s.writeA d Point.gen).advance

/-- PGETX Fd, Aa (43_group.md R120). -/
def execPgetx (d a : RegIdx) (s : State) : Host.Outcome State Fault Refusal :=
  settle s do
    let P ← rdA s a
    let xy ← coordinates P
    return (s.writeF d xy.1 1 true).advance

/-- PGETY Fd, Aa (43_group.md R121). -/
def execPgety (d a : RegIdx) (s : State) : Host.Outcome State Fault Refusal :=
  settle s do
    let P ← rdA s a
    let xy ← coordinates P
    return (s.writeF d xy.2 1 true).advance

/-- PVALID Aa: curve-membership test (43_group.md R122). -/
def execPvalid (a : RegIdx) (s : State) : Host.Outcome State Fault Refusal :=
  settle s do
    let P ← rdA s a
    return (s.writeC P.isValid).advance

/-- PISINF Aa: infinity test (43_group.md R123). -/
def execPisinf (a : RegIdx) (s : State) : Host.Outcome State Fault Refusal :=
  settle s do
    let P ← rdA s a
    return (s.writeC (isInfinity P)).advance

/-- PNEG Ad, Aa (43_group.md R124). -/
def execPneg (d a : RegIdx) (s : State) : Host.Outcome State Fault Refusal :=
  settle s do
    let P ← rdA s a
    return (s.writeA d P.neg).advance

/-- JSETINF Jd (43_group.md R125). -/
def execJsetinf (d : RegIdx) (s : State) : Host.Outcome State Fault Refusal :=
  settle s do
    return (s.writeJ d .inf).advance

/-- JFROMA Jd, Aa: affine to Jacobian, exact (43_group.md R126). -/
def execJfroma (d a : RegIdx) (s : State) : Host.Outcome State Fault Refusal :=
  settle s do
    let P ← rdA s a
    return (s.writeJ d P).advance

/-- JTOA Ad, Ja: Jacobian to affine, exact (43_group.md R127). -/
def execJtoa (d a : RegIdx) (s : State) : Host.Outcome State Fault Refusal :=
  settle s do
    let P ← rdJ s a
    return (s.writeA d P).advance

/-- JISINF Ja: infinity test (43_group.md R128). -/
def execJisinf (a : RegIdx) (s : State) : Host.Outcome State Fault Refusal :=
  settle s do
    let P ← rdJ s a
    return (s.writeC (isInfinity P)).advance

/-- JNEG Jd, Ja (43_group.md R129). -/
def execJneg (d a : RegIdx) (s : State) : Host.Outcome State Fault Refusal :=
  settle s do
    let P ← rdJ s a
    return (s.writeJ d P.neg).advance

/-- JDBL Jd, Ja: doubling; a draw off the curve (43_group.md R130, R116). -/
def execJdbl (d a : RegIdx) (s : State) : Host.Outcome State Fault Refusal :=
  settle s do
    let P ← rdJ s a
    return (s.writeGroup d P.onCurve P.dbl).advance

/-- JADDA Jd, Ja, Ab: mixed addition; a draw off the curve (43_group.md R131, R116). -/
def execJadda (d a b : RegIdx) (s : State) : Host.Outcome State Fault Refusal :=
  settle s do
    let P ← rdJ s a
    let Q ← rdA s b
    return (s.writeGroup d (P.onCurve && Q.onCurve) (P.add Q)).advance

/-- JADD Jd, Ja, Jb: full addition; a draw off the curve (43_group.md R132, R116). -/
def execJadd (d a b : RegIdx) (s : State) : Host.Outcome State Fault Refusal :=
  settle s do
    let P ← rdJ s a
    let Q ← rdJ s b
    return (s.writeGroup d (P.onCurve && Q.onCurve) (P.add Q)).advance

end Sys2Proof.Machine
end

