-- ==== Sys2Proof/Machine/Move.lean ====
section
/-! DEFINITION. Loads, stores, register moves and constants (40_control.md R80-R91). -/

namespace Sys2Proof.Machine

open Sys2Proof.Config

/-- FLD Fd, @s: load a field element, C reports v >= p (40_control.md R80). -/
def execFld (d : RegIdx) (slot : Nat) (s : State) : Host.Outcome State Fault Refusal :=
  settle s do
    checkSlot slotLimit32 slot
    let v := s.memRead (slotAddr slot) 32
    return ((s.writeF d v 1 (!fieldOverflow v)).writeC (fieldOverflow v)).advance

/-- FST Fa, @s: store a normalized field element (40_control.md R81). -/
def execFst (a : RegIdx) (slot : Nat) (s : State) : Host.Outcome State Fault Refusal :=
  settle s do
    checkSlot slotLimit32 slot
    let x ← rdF s a
    checkNormalized x
    return (s.memWrite (slotAddr slot) 32 x.v).advance

/-- SLD Sd, @s: load a scalar reduced mod n, C reports v >= n (40_control.md R82). -/
def execSld (d : RegIdx) (slot : Nat) (s : State) : Host.Outcome State Fault Refusal :=
  settle s do
    checkSlot slotLimit32 slot
    let v := s.memRead (slotAddr slot) 32
    return ((s.writeS d (v % N_ORDER)).writeC (scalarOverflow v)).advance

/-- SST Sa, @s: store a scalar (40_control.md R83). -/
def execSst (a : RegIdx) (slot : Nat) (s : State) : Host.Outcome State Fault Refusal :=
  settle s do
    checkSlot slotLimit32 slot
    let v ← rdS s a
    return (s.memWrite (slotAddr slot) 32 v).advance

/-- FMOV Fd, Fa: copy a field register with its tags (40_control.md R84). -/
def execFmov (d a : RegIdx) (s : State) : Host.Outcome State Fault Refusal :=
  settle s do
    let x ← rdF s a
    return (s.writeF d x.v x.m x.N).advance

/-- SMOV Sd, Sa (40_control.md R85). -/
def execSmov (d a : RegIdx) (s : State) : Host.Outcome State Fault Refusal :=
  settle s do
    let v ← rdS s a
    return (s.writeS d v).advance

/-- AMOV Ad, Aa (40_control.md R86). -/
def execAmov (d a : RegIdx) (s : State) : Host.Outcome State Fault Refusal :=
  settle s do
    let P ← rdA s a
    return (s.writeA d P).advance

/-- JMOV Jd, Ja (40_control.md R87). -/
def execJmov (d a : RegIdx) (s : State) : Host.Outcome State Fault Refusal :=
  settle s do
    let P ← rdJ s a
    return (s.writeJ d P).advance

/-- FSETI Fd, #i (40_control.md R88). -/
def execFseti (d : RegIdx) (i : Nat) (s : State) : Host.Outcome State Fault Refusal :=
  settle s do
    return (s.writeF d i 1 true).advance

/-- SSETI Sd, #i (40_control.md R89). -/
def execSseti (d : RegIdx) (i : Nat) (s : State) : Host.Outcome State Fault Refusal :=
  settle s do
    return (s.writeS d i).advance

/-- SFROMF Sd, Fa: reduce a normalized field element mod n, C reports v >= n (40_control.md R90). -/
def execSfromf (d a : RegIdx) (s : State) : Host.Outcome State Fault Refusal :=
  settle s do
    let x ← rdF s a
    checkNormalized x
    return ((s.writeS d (x.v % N_ORDER)).writeC (scalarOverflow x.v)).advance

/-- FFROMS Fd, Sa: take a scalar as a field element (40_control.md R91). -/
def execFfroms (d a : RegIdx) (s : State) : Host.Outcome State Fault Refusal :=
  settle s do
    let v ← rdS s a
    return (s.writeF d v 1 true).advance

end Sys2Proof.Machine
end

