-- ==== Sys2Proof/Machine/Multiply.lean ====
section
/-! DEFINITION. The multiply instructions (44_multiply.md R133-R136). -/

namespace Sys2Proof.Machine

open Sys2Proof.Config

/-- GCTX: build the generator table once (44_multiply.md R133). -/
def execGctx (s : State) : Host.Outcome State Fault Refusal :=
  settle s do
    return s.buildContext.advance

/-- PMUL Jd, Sa, Ab: k*P; a draw off the curve (44_multiply.md R134, 43_group.md R116). -/
def execPmul (d a b : RegIdx) (s : State) : Host.Outcome State Fault Refusal :=
  settle s do
    let k ← rdS s a
    let P ← rdA s b
    return (s.writeGroup d P.onCurve (P.mul k)).advance

/-- PMULG Jd, Sa: k*G (44_multiply.md R135). -/
def execPmulg (d a : RegIdx) (s : State) : Host.Outcome State Fault Refusal :=
  settle s do
    let k ← rdS s a
    checkContext s
    return (s.writeJ d (Point.gen.mul k)).advance

/-- PMULGQ Jd, Sa, Sb, Ac: a*G + b*Q; a draw off the curve (44_multiply.md R136, 43_group.md R116). -/
def execPmulgq (d a b c : RegIdx) (s : State) : Host.Outcome State Fault Refusal :=
  settle s do
    let x ← rdS s a
    let y ← rdS s b
    let Q ← rdA s c
    checkContext s
    return (s.writeGroup d Q.onCurve (combined x y Q)).advance

end Sys2Proof.Machine
end

