-- ==== Sys2Proof/Machine/Scalar.lean ====
section
/-! DEFINITION. The scalar instructions, arithmetic mod n (42_scalar.md R106-R115). -/

namespace Sys2Proof.Machine

open Sys2Proof.Config

/-- SADD Sd, Sa, Sb: add mod n (42_scalar.md R106). -/
def execSadd (d a b : RegIdx) (s : State) : Host.Outcome State Fault Refusal :=
  settle s do
    let x ← rdS s a
    let y ← rdS s b
    return (s.writeS d ((x + y) % N_ORDER)).advance

/-- SNEG Sd, Sa: negate mod n (42_scalar.md R107). -/
def execSneg (d a : RegIdx) (s : State) : Host.Outcome State Fault Refusal :=
  settle s do
    let x ← rdS s a
    return (s.writeS d ((N_ORDER - x) % N_ORDER)).advance

/-- SMUL Sd, Sa, Sb: multiply mod n (42_scalar.md R108). -/
def execSmul (d a b : RegIdx) (s : State) : Host.Outcome State Fault Refusal :=
  settle s do
    let x ← rdS s a
    let y ← rdS s b
    return (s.writeS d (x * y % N_ORDER)).advance

/-- SMULM Sd, Sa, Sb: Montgomery multiply mod n (42_scalar.md R109). -/
def execSmulm (d a b : RegIdx) (s : State) : Host.Outcome State Fault Refusal :=
  settle s do
    let x ← rdS s a
    let y ← rdS s b
    return (s.writeS d (montN x y)).advance

/-- SINV Sd, Sa: inverse mod n (42_scalar.md R110). -/
def execSinv (d a : RegIdx) (s : State) : Host.Outcome State Fault Refusal :=
  settle s do
    let x ← rdS s a
    raiseIf .invZero (decide (x = 0))
    return (s.writeS d (invN x)).advance

/-- SISZ Sa: zero test (42_scalar.md R111). -/
def execSisz (a : RegIdx) (s : State) : Host.Outcome State Fault Refusal :=
  settle s do
    let x ← rdS s a
    return (s.writeC (isZero x)).advance

/-- SEQ Sa, Sb: equality test (42_scalar.md R112). -/
def execSeq (a b : RegIdx) (s : State) : Host.Outcome State Fault Refusal :=
  settle s do
    let x ← rdS s a
    let y ← rdS s b
    return (s.writeC (isEqual x y)).advance

/-- SLT Sa, Sb: order test (42_scalar.md R113). -/
def execSlt (a b : RegIdx) (s : State) : Host.Outcome State Fault Refusal :=
  settle s do
    let x ← rdS s a
    let y ← rdS s b
    return (s.writeC (isLess x y)).advance

/-- SHIGH Sa: high-half test (42_scalar.md R114). -/
def execShigh (a : RegIdx) (s : State) : Host.Outcome State Fault Refusal :=
  settle s do
    let x ← rdS s a
    return (s.writeC (isHigh x)).advance

/-- The bytes SWNAF writes: digit i as a two's-complement byte, digit 0 first (42_scalar.md R115). -/
def wnafBytes (k w : Nat) : List Byte := (wnaf k w).map (BitVec.ofInt 8)

/-- SWNAF @s, Sa, #w: write the 257 wNAF digits (42_scalar.md R115). -/
def execSwnaf (slot : Nat) (a : RegIdx) (w : Nat) (s : State) : Host.Outcome State Fault Refusal :=
  settle s do
    checkSlot slotLimit257 slot
    checkWidth w
    let k ← rdS s a
    return (s.writeBytes (slotAddr slot) (wnafBytes k w)).advance

end Sys2Proof.Machine
end

