-- ==== Sys2Proof/Machine/Dispatch.lean ====
section
/-! DEFINITION. The meaning of every instruction: one arm a constructor. -/

namespace Sys2Proof.Machine

def exec (i : Instr) (s : State) : Host.Outcome State Fault Refusal :=
  match i with
  | .halt => Sys2Proof.Machine.execHalt s
  | .jmp t => Sys2Proof.Machine.execJmp t s
  | .bt t => Sys2Proof.Machine.execBt t s
  | .bf t => Sys2Proof.Machine.execBf t s
  | .setk imm => Sys2Proof.Machine.execSetk imm s
  | .djnz t => Sys2Proof.Machine.execDjnz t s
  | .nop => Sys2Proof.Machine.execNop s
  | .fld d slot => Sys2Proof.Machine.execFld d slot s
  | .fst a slot => Sys2Proof.Machine.execFst a slot s
  | .sld d slot => Sys2Proof.Machine.execSld d slot s
  | .sst a slot => Sys2Proof.Machine.execSst a slot s
  | .fmov d a => Sys2Proof.Machine.execFmov d a s
  | .smov d a => Sys2Proof.Machine.execSmov d a s
  | .fseti d imm => Sys2Proof.Machine.execFseti d imm s
  | .sseti d imm => Sys2Proof.Machine.execSseti d imm s
  | .sfromf d a => Sys2Proof.Machine.execSfromf d a s
  | .ffroms d a => Sys2Proof.Machine.execFfroms d a s
  | .amov d a => Sys2Proof.Machine.execAmov d a s
  | .jmov d a => Sys2Proof.Machine.execJmov d a s
  | .fadd d a b => Sys2Proof.Machine.execFadd d a b s
  | .fneg d a bound => Sys2Proof.Machine.execFneg d a bound s
  | .fmul d a b => Sys2Proof.Machine.execFmul d a b s
  | .fsqr d a => Sys2Proof.Machine.execFsqr d a s
  | .fmulm d a b => Sys2Proof.Machine.execFmulm d a b s
  | .fnorm d a => Sys2Proof.Machine.execFnorm d a s
  | .fnormv d a => Sys2Proof.Machine.execFnormv d a s
  | .finv d a => Sys2Proof.Machine.execFinv d a s
  | .fsqrt d a => Sys2Proof.Machine.execFsqrt d a s
  | .fisz a => Sys2Proof.Machine.execFisz a s
  | .fisodd a => Sys2Proof.Machine.execFisodd a s
  | .feq a b => Sys2Proof.Machine.execFeq a b s
  | .flt a b => Sys2Proof.Machine.execFlt a b s
  | .sadd d a b => Sys2Proof.Machine.execSadd d a b s
  | .sneg d a => Sys2Proof.Machine.execSneg d a s
  | .smul d a b => Sys2Proof.Machine.execSmul d a b s
  | .smulm d a b => Sys2Proof.Machine.execSmulm d a b s
  | .sinv d a => Sys2Proof.Machine.execSinv d a s
  | .sisz a => Sys2Proof.Machine.execSisz a s
  | .seq a b => Sys2Proof.Machine.execSeq a b s
  | .slt a b => Sys2Proof.Machine.execSlt a b s
  | .shigh a => Sys2Proof.Machine.execShigh a s
  | .swnaf slot a w => Sys2Proof.Machine.execSwnaf slot a w s
  | .psetxy d a b => Sys2Proof.Machine.execPsetxy d a b s
  | .psetinf d => Sys2Proof.Machine.execPsetinf d s
  | .pldg d => Sys2Proof.Machine.execPldg d s
  | .pgetx d a => Sys2Proof.Machine.execPgetx d a s
  | .pgety d a => Sys2Proof.Machine.execPgety d a s
  | .pvalid a => Sys2Proof.Machine.execPvalid a s
  | .pisinf a => Sys2Proof.Machine.execPisinf a s
  | .pneg d a => Sys2Proof.Machine.execPneg d a s
  | .jsetinf d => Sys2Proof.Machine.execJsetinf d s
  | .jfroma d a => Sys2Proof.Machine.execJfroma d a s
  | .jtoa d a => Sys2Proof.Machine.execJtoa d a s
  | .jisinf a => Sys2Proof.Machine.execJisinf a s
  | .jneg d a => Sys2Proof.Machine.execJneg d a s
  | .jdbl d a => Sys2Proof.Machine.execJdbl d a s
  | .jadda d a b => Sys2Proof.Machine.execJadda d a b s
  | .jadd d a b => Sys2Proof.Machine.execJadd d a b s
  | .gctx => Sys2Proof.Machine.execGctx s
  | .pmul d a b => Sys2Proof.Machine.execPmul d a b s
  | .pmulg d a => Sys2Proof.Machine.execPmulg d a s
  | .pmulgq d a b c => Sys2Proof.Machine.execPmulgq d a b c s
  | .esign slot h d k => Sys2Proof.Machine.execEsign slot h d k s
  | .everify q h slot => Sys2Proof.Machine.execEverify q h slot s
  | .erecover d h slot => Sys2Proof.Machine.execErecover d h slot s

end Sys2Proof.Machine
end

