-- ==== Sys2Proof/Machine/HostBus.lean ====
section
/-! DEFINITION. The host interface: what lies at each offset of the window, and what a host access does
(10_state.md R35-R44, 20_memory.md R47-R51, 70_reset_and_hazards.md R163). -/

namespace Sys2Proof.Machine

open Sys2Proof.Config

/-- What lies at an offset of the window (10_state.md R35, 20_memory.md R47). -/
inductive WindowTarget where
  | id
  | ctrl
  | status
  | entry
  | pc
  | cause
  | faultPc
  | k
  | dmem (addr : Nat)
  | cmdmem (index : Nat)
  | reserved
deriving DecidableEq, Repr

/-- What a word offset of the window selects (10_state.md R35, 20_memory.md R47). -/
def windowTarget (off : Nat) : WindowTarget :=
  if off < 0x1000 then
    if off = 0x000 then .id
    else if off = 0x004 then .ctrl
    else if off = 0x008 then .status
    else if off = 0x00C then .entry
    else if off = 0x010 then .pc
    else if off = 0x014 then .cause
    else if off = 0x018 then .faultPc
    else if off = 0x01C then .k
    else .reserved
  else if off < 0x2000 then .dmem (off - 0x1000)
  else if off < 0x10000 then .reserved
  else if off < 0x14000 then .cmdmem ((off - 0x10000) / 4)
  else .reserved

/-- The window offset a bus address selects, when it lies in this core's window (20_memory.md R47; log 11). -/
def windowOffset (addr : Nat) : Option (BitVec 17) :=
  if BASE ≤ addr ∧ addr < BASE + WINDOW_BYTES then some (BitVec.ofNat 17 (addr - BASE)) else none

/-- An access of another width than 32 bits, or at an offset that is no multiple of 4 (20_memory.md R48). -/
def BusAccess.malformed (a : BusAccess) : Bool := decide (a.bytes ≠ 4 ∨ a.offset.toNat % 4 ≠ 0)

/-- The window's memories, which the host reaches only while the engine is IDLE (20_memory.md R51). -/
def WindowTarget.isMemory : WindowTarget → Bool
  | .dmem _ | .cmdmem _ => true
  | .id | .ctrl | .status | .entry | .pc | .cause | .faultPc | .k | .reserved => false

/-- DMEM bytes a to a+3 as a bus word, byte a in bits 7:0 (20_memory.md R49). -/
def State.laneRead (s : State) (a : Nat) : Word :=
  BitVec.ofNat 32 ((s.readByte a).toNat + (s.readByte (a + 1)).toNat * 2 ^ 8
    + (s.readByte (a + 2)).toNat * 2 ^ 16 + (s.readByte (a + 3)).toNat * 2 ^ 24)

/-- The four bytes of a bus word, bits 7:0 first (20_memory.md R49). -/
def laneBytes (v : Word) : List Byte :=
  [v.extractLsb' 0 8, v.extractLsb' 8 8, v.extractLsb' 16 8, v.extractLsb' 24 8]

/-- The data of an honoured host read (10_state.md R36-R43; 20_memory.md R47, R49, R50). -/
def State.busRead (s : State) : WindowTarget → Word
  | .id => ID_VALUE
  | .ctrl => s.ctrlWord
  | .status => s.statusWord
  | .entry => s.ENTRY.setWidth 32
  | .pc => s.pc.setWidth 32
  | .cause => s.CAUSE.code.setWidth 32
  | .faultPc => s.FAULT_PC.setWidth 32
  | .k => s.K.setWidth 32
  | .dmem a => s.laneRead a
  | .cmdmem j => s.readCmd j
  | .reserved => 0#32

/-- The effect of an honoured host write; read-only and reserved offsets ignore it
(10_state.md R35-R43; 20_memory.md R47, R49, R50). -/
def State.busWrite (s : State) (v : Word) : WindowTarget → State
  | .ctrl => s.writeCtrl v
  | .status => s.writeStatus v
  | .entry => { s with ENTRY := v.setWidth 12 }
  | .dmem a => s.writeBytes a (laneBytes v)
  | .cmdmem j => s.writeCmd j v
  | .id | .pc | .cause | .faultPc | .k | .reserved => s

/-- The core's answer on the bus (20_memory.md R48; log 10). -/
def State.respond (s : State) (data : Word) (error : Bool) : State := { s with response := ⟨data, error⟩ }

/-- An access at a word offset that the core honours. -/
def State.honour (s : State) (op : BusOp) (t : WindowTarget) : State :=
  match op with
  | .read => s.respond (s.busRead t) false
  | .write v => (s.busWrite v t).respond 0#32 false

/-- A host access: a malformed one gets a bus error and changes no state (20_memory.md R48); one to a memory while
BUSY is dropped, reads 0 and sets ACCERR (R51); every other one is honoured. -/
def State.hostAccess (s : State) (a : BusAccess) : State :=
  if a.malformed then s.respond 0#32 true
  else if (windowTarget a.offset.toNat).isMemory && s.busy then { s with ACCERR := true }.respond 0#32 false
  else s.honour a.op (windowTarget a.offset.toNat)

end Sys2Proof.Machine
end

