-- ==== Sys2Proof/Machine/Engine.lean ====
section
/-! DEFINITION. The engine step (40_control.md R72), one move of one agent (00_scope.md R9), and how a single word is
placed where the engine fetches it. -/

namespace Sys2Proof.Machine

/-- One step of the engine: nothing while IDLE (10_state.md R34, 60_exceptions.md R157); while RUNNING, fetch at pc,
fault ILLEGAL on a word that is no instruction, else run the instruction (40_control.md R72, 30_encoding.md R69). -/
def engineStep (s : State) : Host.Outcome State Fault Refusal :=
  match s.run with
  | .idle => .next s
  | .running =>
    match decode s.fetch with
    | .ok i => exec i s
    | .error _ => settle s (.error .illegal)

/-- The state with the moves still to come replaced. -/
def State.withInputs (s : State) (moves : List Move) : State := { s with inputs := moves }

/-- One move of the machine: the next of `inputs`, or an engine step when none is listed (log 1). -/
def moveStep (s : State) : Host.Outcome State Fault Refusal :=
  match s.inputs with
  | [] => engineStep s
  | .engine :: rest => engineStep (s.withInputs rest)
  | .host a :: rest => .next ((s.withInputs rest).hostAccess a)
  | .hardReset :: rest => .next (s.withInputs rest).hardReset

/-- The word an instruction of `nbits` bits and value `w` is stored as. -/
def tableWord (nbits w : Nat) : Word := BitVec.ofNat 32 (w % 2 ^ nbits)

/-- The engine RUNNING, with this word at pc and no host move before its next step (log 2). -/
def State.placeAndRun (s : State) (word : Word) : State :=
  { s.writeCmd s.pc.toNat word with run := .running, inputs := [] }

end Sys2Proof.Machine
end

