-- ==== Sys2Proof/Machine/Step.lean ====
section
/-! DEFINITION. The step function, and the placing of one instruction for the host's questions. -/

namespace Sys2Proof.Machine

/-- One step of the machine: one move of one agent (00_scope.md R9, 40_control.md R72). -/
def step (s : State) : Host.Outcome State Fault Refusal := moveStep s

/-- The state in which the very next step fetches and runs the instruction whose bits are `w` (log 2). -/
def State.withFetchWord (s : State) (nbits w : Nat) : State := s.placeAndRun (tableWord nbits w)

end Sys2Proof.Machine
end

