-- ==== Sys2Proof/Machine/Timing.lean ====
section
/-! DEFINITION. The timing classes (70_reset_and_hazards.md R165), the latency of an instruction (R166) and its access
pattern (R165). No step reads them. -/

namespace Sys2Proof.Machine

open Sys2Proof.Config

/-- Constant-time or variable-time (70_reset_and_hazards.md R165). -/
inductive TimingClass where
  | ct
  | vt
deriving DecidableEq, Repr

/-- The class of each opcode (70_reset_and_hazards.md R165). -/
def timingClass : Instr → TimingClass
  | .fnormv _ _ | .swnaf _ _ _ | .pvalid _ | .pmulgq _ _ _ _ | .everify _ _ _ | .erecover _ _ _ => .vt
  | .halt | .jmp _ | .bt _ | .bf _ | .setk _ | .djnz _ | .nop => .ct
  | .fld _ _ | .fst _ _ | .sld _ _ | .sst _ _ | .fmov _ _ | .smov _ _ | .fseti _ _ | .sseti _ _ => .ct
  | .sfromf _ _ | .ffroms _ _ | .amov _ _ | .jmov _ _ => .ct
  | .fadd _ _ _ | .fneg _ _ _ | .fmul _ _ _ | .fsqr _ _ | .fmulm _ _ _ | .fnorm _ _ | .finv _ _ | .fsqrt _ _ => .ct
  | .fisz _ | .fisodd _ | .feq _ _ | .flt _ _ => .ct
  | .sadd _ _ _ | .sneg _ _ | .smul _ _ _ | .smulm _ _ _ | .sinv _ _ => .ct
  | .sisz _ | .seq _ _ | .slt _ _ | .shigh _ => .ct
  | .psetxy _ _ _ | .psetinf _ | .pldg _ | .pgetx _ _ | .pgety _ _ | .pisinf _ | .pneg _ _ => .ct
  | .jsetinf _ | .jfroma _ _ | .jtoa _ _ | .jisinf _ | .jneg _ _ | .jdbl _ _ | .jadda _ _ _ | .jadd _ _ _ => .ct
  | .gctx | .pmul _ _ _ | .pmulg _ _ | .esign _ _ _ _ => .ct

/-- The register numbers in the instruction's fields, in the order of its syntax (30_encoding.md R65, R67). -/
def registerNumbers : Instr → List RegIdx
  | .halt | .jmp _ | .bt _ | .bf _ | .setk _ | .djnz _ | .nop | .gctx => []
  | .fld r _ | .fst r _ | .sld r _ | .sst r _ | .fseti r _ | .sseti r _ => [r]
  | .fisz r | .fisodd r | .sisz r | .shigh r | .swnaf _ r _ => [r]
  | .psetinf r | .pldg r | .pvalid r | .pisinf r | .jsetinf r | .jisinf r => [r]
  | .fmov d a | .smov d a | .amov d a | .jmov d a | .sfromf d a | .ffroms d a => [d, a]
  | .fneg d a _ | .fsqr d a | .fnorm d a | .fnormv d a | .finv d a | .fsqrt d a | .sneg d a | .sinv d a => [d, a]
  | .pgetx d a | .pgety d a | .pneg d a | .jfroma d a | .jtoa d a | .jneg d a | .jdbl d a | .pmulg d a => [d, a]
  | .feq a b | .flt a b | .seq a b | .slt a b => [a, b]
  | .everify q h _ => [q, h]
  | .erecover d h _ => [d, h]
  | .fadd d a b | .fmul d a b | .fmulm d a b | .sadd d a b | .smul d a b | .smulm d a b => [d, a, b]
  | .psetxy d a b | .jadda d a b | .jadd d a b | .pmul d a b => [d, a, b]
  | .esign _ h d k => [h, d, k]
  | .pmulgq d a b c => [d, a, b, c]

/-- The slot number in the instruction's imm12, where it has one (20_memory.md R53, R54). -/
def slotNumber : Instr → Option Nat
  | .fld _ s | .fst _ s | .sld _ s | .sst _ s | .swnaf s _ _ => some s
  | .esign s _ _ _ | .everify _ _ s | .erecover _ _ s => some s
  | .halt | .jmp _ | .bt _ | .bf _ | .setk _ | .djnz _ | .nop => none
  | .fmov _ _ | .smov _ _ | .fseti _ _ | .sseti _ _ | .sfromf _ _ | .ffroms _ _ | .amov _ _ | .jmov _ _ => none
  | .fadd _ _ _ | .fneg _ _ _ | .fmul _ _ _ | .fsqr _ _ | .fmulm _ _ _ | .fnorm _ _ | .fnormv _ _ | .finv _ _ => none
  | .fsqrt _ _ | .fisz _ | .fisodd _ | .feq _ _ | .flt _ _ => none
  | .sadd _ _ _ | .sneg _ _ | .smul _ _ _ | .smulm _ _ _ | .sinv _ _ | .sisz _ | .seq _ _ | .slt _ _ | .shigh _ => none
  | .psetxy _ _ _ | .psetinf _ | .pldg _ | .pgetx _ _ | .pgety _ _ | .pvalid _ | .pisinf _ | .pneg _ _ => none
  | .jsetinf _ | .jfroma _ _ | .jtoa _ _ | .jisinf _ | .jneg _ _ | .jdbl _ _ | .jadda _ _ _ | .jadd _ _ _ => none
  | .gctx | .pmul _ _ _ | .pmulg _ _ | .pmulgq _ _ _ _ => none

/-- `LAT`: how many engine cycles the instruction takes on operand values that amount to `operands`; at least 1, and
for a constant-time instruction a function of its opcode, register numbers and slot number alone
(70_reset_and_hazards.md R165, R166; log 14). -/
def latency (i : Instr) (operands : Nat) : Nat :=
  match timingClass i with
  | .ct => 1 + latencyCT i.mnemonic (registerNumbers i) (slotNumber i)
  | .vt => 1 + latencyVT (encode i) operands

/-- The instruction's accesses to internal tables and DMEM, in order, on operand values that amount to `operands`; for a
constant-time instruction a function of its opcode, register numbers and slot number alone
(70_reset_and_hazards.md R165; log 14). -/
def accesses (i : Instr) (operands : Nat) : List Access :=
  match timingClass i with
  | .ct => accessesCT i.mnemonic (registerNumbers i) (slotNumber i)
  | .vt => accessesVT (encode i) operands

end Sys2Proof.Machine
end

