-- ==== Sys2Proof/Safety.lean ====
section
/-! DEFINITION. The terms claims use: the invariants of the state, what an instruction reads, writes and may raise
(the tables of 10_state.md, 20_memory.md and 60_exceptions.md), and frames. No step reads anything of this file. -/

namespace Sys2Proof.Machine

open Sys2Proof.Config

/-! ### Registers by name -/

/-- A register of one of the four files (10_state.md R22). -/
inductive RegRef where
  | F (i : RegIdx)
  | S (i : RegIdx)
  | A (i : RegIdx)
  | J (i : RegIdx)
deriving DecidableEq, Repr

/-- The register's valid bit (10_state.md R23). -/
def State.validBit (s : State) : RegRef → Bool
  | .F i => s.F[i].valid
  | .S i => s.S[i].valid
  | .A i => s.A[i].valid
  | .J i => s.J[i].valid

/-- The register holds the same in both states. -/
def SameRegister (s t : State) : RegRef → Prop
  | .F i => t.F[i] = s.F[i]
  | .S i => t.S[i] = s.S[i]
  | .A i => t.A[i] = s.A[i]
  | .J i => t.J[i] = s.J[i]

/-- The registers an instruction reads: the operands its rule reads by rdF, rdS, rdA or rdJ. -/
def registersRead : Instr → List RegRef
  | .halt | .jmp _ | .bt _ | .bf _ | .setk _ | .djnz _ | .nop => []
  | .fld _ _ | .sld _ _ | .fseti _ _ | .sseti _ _ => []
  | .fst a _ => [.F a]
  | .sst a _ => [.S a]
  | .fmov _ a | .sfromf _ a => [.F a]
  | .smov _ a | .ffroms _ a => [.S a]
  | .amov _ a => [.A a]
  | .jmov _ a => [.J a]
  | .fadd _ a b | .fmul _ a b | .fmulm _ a b | .feq a b | .flt a b => [.F a, .F b]
  | .fneg _ a _ | .fsqr _ a | .fnorm _ a | .fnormv _ a | .finv _ a | .fsqrt _ a | .fisz a | .fisodd a => [.F a]
  | .sadd _ a b | .smul _ a b | .smulm _ a b | .seq a b | .slt a b => [.S a, .S b]
  | .sneg _ a | .sinv _ a | .sisz a | .shigh a | .swnaf _ a _ => [.S a]
  | .psetxy _ a b => [.F a, .F b]
  | .psetinf _ | .pldg _ | .jsetinf _ | .gctx => []
  | .pgetx _ a | .pgety _ a | .pvalid a | .pisinf a | .pneg _ a | .jfroma _ a => [.A a]
  | .jtoa _ a | .jisinf a | .jneg _ a | .jdbl _ a => [.J a]
  | .jadda _ a b => [.J a, .A b]
  | .jadd _ a b => [.J a, .J b]
  | .pmul _ a b => [.S a, .A b]
  | .pmulg _ a => [.S a]
  | .pmulgq _ a b c => [.S a, .S b, .A c]
  | .esign _ h d k => [.S h, .S d, .S k]
  | .everify q h _ => [.A q, .S h]
  | .erecover _ h _ => [.S h]

/-- The destination register of an instruction. -/
def destination : Instr → Option RegRef
  | .halt | .jmp _ | .bt _ | .bf _ | .setk _ | .djnz _ | .nop | .gctx => none
  | .fst _ _ | .sst _ _ | .swnaf _ _ _ | .esign _ _ _ _ | .everify _ _ _ => none
  | .fisz _ | .fisodd _ | .feq _ _ | .flt _ _ | .sisz _ | .seq _ _ | .slt _ _ | .shigh _ => none
  | .pvalid _ | .pisinf _ | .jisinf _ => none
  | .fld d _ | .fmov d _ | .fseti d _ | .ffroms d _ | .fadd d _ _ | .fneg d _ _ | .fmul d _ _ | .fsqr d _ => some (.F d)
  | .fmulm d _ _ | .fnorm d _ | .fnormv d _ | .finv d _ | .fsqrt d _ | .pgetx d _ | .pgety d _ => some (.F d)
  | .sld d _ | .smov d _ | .sseti d _ | .sfromf d _ | .sadd d _ _ | .sneg d _ | .smul d _ _ | .smulm d _ _ => some (.S d)
  | .sinv d _ => some (.S d)
  | .amov d _ | .psetxy d _ _ | .psetinf d | .pldg d | .pneg d _ | .jtoa d _ | .erecover d _ _ => some (.A d)
  | .jmov d _ | .jsetinf d | .jfroma d _ | .jneg d _ | .jdbl d _ | .jadda d _ _ | .jadd d _ _ => some (.J d)
  | .pmul d _ _ | .pmulg d _ | .pmulgq d _ _ _ => some (.J d)

/-! ### The tables of the spec -/

/-- The slot an instruction touches and the highest one it accepts (20_memory.md R54). -/
def slotAndLimit : Instr → Option (Nat × Nat)
  | .fld _ s | .sld _ s | .fst _ s | .sst _ s => some (s, 127)
  | .swnaf s _ _ => some (s, 119)
  | .esign s _ _ _ => some (s, 125)
  | .everify _ _ s => some (s, 126)
  | .erecover _ _ s => some (s, 125)
  | _ => none

/-- The instructions that read GCTX (10_state.md R32). -/
def readsContext : Instr → Bool
  | .pmulg _ _ | .pmulgq _ _ _ _ | .esign _ _ _ _ | .everify _ _ _ | .erecover _ _ _ => true
  | _ => false

/-- The field operands that must be normalized (10_state.md R25). -/
def normalizedOperands : Instr → List RegIdx
  | .fst a _ | .fisz a | .fisodd a | .sfromf _ a => [a]
  | .feq a b | .flt a b => [a, b]
  | _ => []

/-- The multiplicative field operands, whose magnitude may be at most 8 (41_field.md R92). -/
def multiplicativeOperands : Instr → List RegIdx
  | .fmul _ a b | .fmulm _ a b => [a, b]
  | .fsqr _ a | .finv _ a | .fsqrt _ a => [a]
  | _ => []

/-- The instructions that write C (10_state.md R30). -/
def writesFlag : Instr → Bool
  | .fld _ _ | .sld _ _ | .sfromf _ _ | .fsqrt _ _ | .fisz _ | .fisodd _ | .feq _ _ | .flt _ _ => true
  | .sisz _ | .seq _ _ | .slt _ _ | .shigh _ | .pvalid _ | .pisinf _ | .jisinf _ => true
  | .esign _ _ _ _ | .everify _ _ _ | .erecover _ _ _ => true
  | _ => false

/-- The instructions that can write N = 1 (10_state.md R25). -/
def writesNormalized : Instr → Bool
  | .fld _ _ | .fseti _ _ | .ffroms _ _ | .fnorm _ _ | .fnormv _ _ | .pgetx _ _ | .pgety _ _ | .fmov _ _ => true
  | _ => false

/-- The instructions that transfer control or end the run (10_state.md R29, 40_control.md R73-R78). -/
def transfersControl : Instr → Bool
  | .halt | .jmp _ | .bt _ | .bf _ | .djnz _ => true
  | _ => false

/-- The bytes an instruction may store: where they start and how many (20_memory.md R54, R57). -/
def storedRange : Instr → Option (Nat × Nat)
  | .fst _ s | .sst _ s => some (slotAddr s, 32)
  | .swnaf s _ _ => some (slotAddr s, 257)
  | .esign s _ _ _ => some (slotAddr s, 65)
  | _ => none

/-- The causes an instruction may raise besides ILLEGAL (60_exceptions.md R145, "raised by"). -/
def mayRaise : Instr → List Cause
  | .halt | .jmp _ | .bt _ | .bf _ | .setk _ | .djnz _ | .nop | .fseti _ _ | .sseti _ _ => []
  | .psetinf _ | .pldg _ | .jsetinf _ | .gctx => []
  | .fld _ _ | .sld _ _ => [.addr]
  | .fst _ _ => [.addr, .uninit, .notNormalized]
  | .sst _ _ => [.addr, .uninit]
  | .fmov _ _ | .smov _ _ | .amov _ _ | .jmov _ _ | .ffroms _ _ => [.uninit]
  | .sfromf _ _ => [.uninit, .notNormalized]
  | .fadd _ _ _ | .fmul _ _ _ | .fsqr _ _ | .fmulm _ _ _ | .fsqrt _ _ => [.uninit, .magnitude]
  | .fneg _ _ _ => [.operand, .uninit, .magnitude]
  | .fnorm _ _ | .fnormv _ _ => [.uninit]
  | .finv _ _ => [.uninit, .magnitude, .invZero]
  | .fisz _ | .fisodd _ | .feq _ _ | .flt _ _ => [.uninit, .notNormalized]
  | .sadd _ _ _ | .sneg _ _ | .smul _ _ _ | .smulm _ _ _ | .sisz _ | .seq _ _ | .slt _ _ | .shigh _ => [.uninit]
  | .sinv _ _ => [.uninit, .invZero]
  | .swnaf _ _ _ => [.addr, .operand, .uninit]
  | .psetxy _ _ _ | .pvalid _ | .pisinf _ | .pneg _ _ | .jfroma _ _ | .jtoa _ _ | .jisinf _ | .jneg _ _ => [.uninit]
  | .pgetx _ _ | .pgety _ _ => [.uninit, .infinity]
  | .jdbl _ _ | .jadda _ _ _ | .jadd _ _ _ | .pmul _ _ _ => [.uninit]
  | .pmulg _ _ | .pmulgq _ _ _ _ => [.uninit, .noContext]
  | .esign _ _ _ _ | .everify _ _ _ | .erecover _ _ _ => [.addr, .uninit, .noContext]

/-! ### The conditions of the faults -/

/-- The condition of each cause, as the check phase of the instruction's rule states it (60_exceptions.md R145).
ILLEGAL is the word's, not the instruction's (30_encoding.md R69). -/
def faultHolds (i : Instr) (s : State) : Cause → Bool
  | .none | .illegal => false
  | .addr => (slotAndLimit i).any fun sl => decide (sl.2 < sl.1)
  | .operand =>
    match i with
    | .fneg _ _ bound => decide (bound < 1 ∨ 31 < bound)
    | .swnaf _ _ w => decide (w < 2 ∨ 8 < w)
    | _ => false
  | .uninit => (registersRead i).any fun r => !s.validBit r
  | .noContext => readsContext i && !s.GCTX
  | .notNormalized => (normalizedOperands i).any fun a => !s.F[a].N
  | .magnitude =>
    match i with
    | .fadd _ a b => decide (32 < s.F[a].m + s.F[b].m)
    | .fneg _ a bound => decide (bound < s.F[a].m)
    | _ => (multiplicativeOperands i).any fun a => decide (8 < s.F[a].m)
  | .infinity =>
    match i with
    | .pgetx _ a | .pgety _ a => decide (s.A[a].pt = .inf)
    | _ => false
  | .invZero =>
    match i with
    | .finv _ a => decide (s.F[a].v % P_FIELD = 0)
    | .sinv _ a => decide (s.S[a].v = 0)
    | _ => false

/-- The order in which one instruction's faults are reported (60_exceptions.md R146). -/
def faultPriority : List Cause :=
  [.illegal, .addr, .operand, .uninit, .noContext, .notNormalized, .magnitude, .infinity, .invZero]

/-- The fault an instruction reports: the first whose condition holds (60_exceptions.md R146). -/
def firstFault (i : Instr) (s : State) : Option Cause := faultPriority.find? (faultHolds i s)

/-- The 191 unassigned values of the op field (30_encoding.md R69). -/
def unassignedOps : List Nat :=
  (List.range 256).filter fun v =>
    v == 0x00 || (0x14 ≤ v && v ≤ 0x1F) || (0x2D ≤ v && v ≤ 0x2F) || (0x3A ≤ v && v ≤ 0x3F)
      || (0x50 ≤ v && v ≤ 0x5F) || (0x64 ≤ v && v ≤ 0x6F) || 0x73 ≤ v

/-! ### Whose move it is -/

/-- The next move of the machine is a step of the engine (log 1). -/
def engineMovesNext (s : State) : Prop := s.inputs = [] ∨ ∃ rest, s.inputs = .engine :: rest

/-- The state whose engine step the next move is: the move is taken off the list. -/
def State.popMove (s : State) : State := s.withInputs s.inputs.tail

/-! ### The invariants -/

/-- A field register keeps its bounds: v < m * 2^256 with 1 <= m <= 32, and a normalized value is canonical
(10_state.md R24). -/
def FReg.bounded (x : FReg) : Prop :=
  1 ≤ x.m ∧ x.m ≤ 32 ∧ x.v < x.m * 2 ^ 256 ∧ (x.N = true → x.v < P_FIELD ∧ x.m = 1)

/-- What the data of the core keep (10_state.md R24, R26, R27, R28, R32; 20_memory.md R46). -/
structure DataInv (s : State) : Prop where
  /-- Written field registers are in bounds (10_state.md R24). -/
  field : ∀ i : RegIdx, s.F[i].valid = true → s.F[i].bounded
  /-- Written scalar registers are reduced (10_state.md R26). -/
  scalar : ∀ i : RegIdx, s.S[i].valid = true → s.S[i].v < N_ORDER
  /-- Written affine registers hold reduced coordinates (10_state.md R27). -/
  affine : ∀ i : RegIdx, s.A[i].valid = true → s.A[i].pt.reduced = true
  /-- Written Jacobian registers hold a point with reduced coordinates (10_state.md R28). -/
  jacobian : ∀ i : RegIdx, s.J[i].valid = true → s.J[i].pt.reduced = true
  /-- DMEM is in canonical form, within its 4096 bytes (20_memory.md R46). -/
  dmem : Memory.wf DMEM_BYTES s.dmem = true
  /-- CMDMEM is in canonical form, within its 4096 words (20_memory.md R46). -/
  cmdmem : Memory.wf CMD_WORDS s.cmdmem = true
  /-- GCTX = 1 means that the table is built (10_state.md R32). -/
  table : s.GCTX = true → s.genTable = oddMultiples W_GEN

/-- What the run control keeps (10_state.md R38, R41, R42; 60_exceptions.md R143, R150). -/
structure RunInv (s : State) : Prop where
  /-- DONE and FAULT are never both 1 (60_exceptions.md R150). -/
  exclusive : ¬ (s.DONE = true ∧ s.FAULT = true)
  /-- During a run there is no DONE, no FAULT, and no cause since START (10_state.md R44). -/
  running : s.run = .running → s.DONE = false ∧ s.FAULT = false ∧ s.CAUSE = .none ∧ s.FAULT_PC = 0#12
  /-- A run that ended with HALT recorded no cause (70_reset_and_hazards.md R162). -/
  done : s.DONE = true → s.CAUSE = .none ∧ s.FAULT_PC = 0#12
  /-- After a fault CAUSE is a fault's code and PC = FAULT_PC (60_exceptions.md R143, 70_reset_and_hazards.md R162). -/
  fault : s.FAULT = true → s.CAUSE ≠ .none ∧ s.FAULT_PC = s.pc

/-! ### What an instruction does, and what it leaves alone -/

/-- The instruction answers a next state, and this holds of it. -/
def Yields (i : Instr) (s : State) (claim : State → Prop) : Prop := ∃ t, exec i s = .next t ∧ claim t

/-- No register of the four files has been written (10_state.md R23). -/
def RegistersUnwritten (s : State) : Prop := ∀ r : RegRef, s.validBit r = false

/-- Every byte of DMEM and every word of CMDMEM reads as before. -/
def KeepsMemory (s t : State) : Prop :=
  (∀ a, t.readByte a = s.readByte a) ∧ ∀ j, t.readCmd j = s.readCmd j

/-- Only pc changes, to `p`. -/
def OnlyPc (p : Word12) (s t : State) : Prop := KeepsMemory s t ∧ t = { s with pc := p }

/-- Only C changes, and pc advances. -/
def OnlyC (s t : State) : Prop := KeepsMemory s t ∧ t = { s with C := t.C, pc := s.pc + 1 }

/-- Only F[d] changes, and pc advances. -/
def OnlyF (d : RegIdx) (s t : State) : Prop :=
  (∀ j : RegIdx, j ≠ d → t.F[j] = s.F[j]) ∧ KeepsMemory s t ∧ t = { s with F := t.F, pc := s.pc + 1 }

/-- Only F[d] and C change, and pc advances. -/
def OnlyFC (d : RegIdx) (s t : State) : Prop :=
  (∀ j : RegIdx, j ≠ d → t.F[j] = s.F[j]) ∧ KeepsMemory s t ∧ t = { s with F := t.F, C := t.C, pc := s.pc + 1 }

/-- Only S[d] changes, and pc advances. -/
def OnlyS (d : RegIdx) (s t : State) : Prop :=
  (∀ j : RegIdx, j ≠ d → t.S[j] = s.S[j]) ∧ KeepsMemory s t ∧ t = { s with S := t.S, pc := s.pc + 1 }

/-- Only S[d] and C change, and pc advances. -/
def OnlySC (d : RegIdx) (s t : State) : Prop :=
  (∀ j : RegIdx, j ≠ d → t.S[j] = s.S[j]) ∧ KeepsMemory s t ∧ t = { s with S := t.S, C := t.C, pc := s.pc + 1 }

/-- Only A[d] changes, and pc advances. -/
def OnlyA (d : RegIdx) (s t : State) : Prop :=
  (∀ j : RegIdx, j ≠ d → t.A[j] = s.A[j]) ∧ KeepsMemory s t ∧ t = { s with A := t.A, pc := s.pc + 1 }

/-- Only A[d] and C change, and pc advances. -/
def OnlyAC (d : RegIdx) (s t : State) : Prop :=
  (∀ j : RegIdx, j ≠ d → t.A[j] = s.A[j]) ∧ KeepsMemory s t ∧ t = { s with A := t.A, C := t.C, pc := s.pc + 1 }

/-- Only J[d] changes, and pc advances. -/
def OnlyJ (d : RegIdx) (s t : State) : Prop :=
  (∀ j : RegIdx, j ≠ d → t.J[j] = s.J[j]) ∧ KeepsMemory s t ∧ t = { s with J := t.J, pc := s.pc + 1 }

/-- Only J[d] and the number of the next free point change, and pc advances. -/
def OnlyJDraw (d : RegIdx) (s t : State) : Prop :=
  (∀ j : RegIdx, j ≠ d → t.J[j] = s.J[j]) ∧ KeepsMemory s t ∧
    t = { s with J := t.J, draws := t.draws, pc := s.pc + 1 }

/-- Only the `len` bytes of DMEM from `lo` up change, and pc advances. -/
def OnlyStore (lo len : Nat) (s t : State) : Prop :=
  (∀ a, (a < lo ∨ lo + len ≤ a) → t.readByte a = s.readByte a) ∧ (∀ j, t.readCmd j = s.readCmd j) ∧
    t = { s with dmem := t.dmem, pc := s.pc + 1 }

/-- Only the `len` bytes of DMEM from `lo` up and C change, and pc advances. -/
def OnlyStoreC (lo len : Nat) (s t : State) : Prop :=
  (∀ a, (a < lo ∨ lo + len ≤ a) → t.readByte a = s.readByte a) ∧ (∀ j, t.readCmd j = s.readCmd j) ∧
    t = { s with dmem := t.dmem, C := t.C, pc := s.pc + 1 }

/-- The bytes of DMEM from `lo` up are these. -/
def BytesAt (s : State) (lo : Nat) (bs : List Byte) : Prop := ∀ i (h : i < bs.length), s.readByte (lo + i) = bs[i]

end Sys2Proof.Machine
end

