-- ==== Sys2Proof/Certificates/Slice0/Obligations.lean ====
section
/-! DEFINITION. The statements about this machine for the provers. Each docstring names the rules of spec/ it
formalises; where a clause rests on a choice of the model, it names the log entry. -/

open Sys2Proof Sys2Proof.Machine Sys2Proof.Config

/-! ### Encoding (30_encoding.md) -/

/-- 30_encoding.md R64-R67: the decoder reads every well-formed instruction back from its word, every operand at every
value its field admits. -/
def Obligations.EveryInstructionDecodesFromItsWord : Prop :=
  ∀ i : Instr, i.wellFormed = true → decode (encode i) = .ok i

/-- 30_encoding.md R67: a word that stands for an instruction is that instruction's word, whole. No second word stands
for the same instruction, and no bit of the word is ignored (R69: no reserved-but-ignored encodings). -/
def Obligations.EveryDecodedWordIsItsEncoding : Prop :=
  ∀ (w : Word) (i : Instr), decode w = .ok i → encode i = w ∧ i.wellFormed = true

/-- 30_encoding.md R67: a word selects the row of mnemonic x exactly when it decodes to an instruction of mnemonic x,
and no word selects two rows. -/
def Obligations.RowsSelectTheDecodedInstruction : Prop :=
  ∀ w : Word,
    (∀ r ∈ opcodeRows, (r.selectedBy w = true ↔ ∃ i, decode w = .ok i ∧ i.mnemonic = r.name)) ∧
    (∀ r ∈ opcodeRows, ∀ r' ∈ opcodeRows, r.selectedBy w = true → r'.selectedBy w = true → r = r')

/-- 30_encoding.md R70: the example words of the assembler syntax, and words of 95_test_vectors.md for the families R70
does not show, decode to the instructions they are written for. -/
def Obligations.SpecExampleWordsDecode : Prop :=
  decode 0x20123000#32 = .ok (.fadd 1 2 3) ∧ decode 0x21100001#32 = .ok (.fneg 1 0 1) ∧
  decode 0x39015008#32 = .ok (.swnaf 8 1 5) ∧ decode 0x63123004#32 = .ok (.pmulgq 1 2 3 4) ∧
  decode 0x70012004#32 = .ok (.esign 4 0 1 2) ∧ decode 0x71010004#32 = .ok (.everify 1 0 4) ∧
  decode 0x06000010#32 = .ok (.djnz 0x10#12) ∧ decode 0x0B03007F#32 = .ok (.sst 3 127) ∧
  decode 0x4E100000#32 = .ok (.jadda 1 0 0) ∧ decode 0x72200004#32 = .ok (.erecover 2 0 4)

/-- 30_encoding.md R69, 40_control.md R72. A running engine whose word selects no row faults ILLEGAL, whatever else holds, and one whose
word selects a row runs an instruction. A word selects no row in two cases: its op field is one of the 191 unassigned
values, or a bit its row marks 0 is set. 0 and 0xFFFFFFFF are such words. That the engine's
move stands in a list and is taken off it first is the model's choice (log 1). -/
def Obligations.WordsNoRowMatchesFaultIllegal : Prop :=
  (∀ s : State, s.run = .running → engineMovesNext s →
    ((∀ r ∈ opcodeRows, r.selectedBy s.fetch = false) → step s = .next (s.popMove.takeFault .illegal)) ∧
    ((∃ r ∈ opcodeRows, r.selectedBy s.fetch = true) → ∃ i, decode s.fetch = .ok i ∧ step s = exec i s.popMove)) ∧
  unassignedOps.length = 191 ∧
  (∀ w : Word, opField w ∈ unassignedOps → ∀ r ∈ opcodeRows, r.selectedBy w = false) ∧
  (∀ w : Word, opField w ∉ unassignedOps → ∃ r ∈ opcodeRows, opField r.value = opField w ∧
    (r.selectedBy w = true ↔ w &&& r.mask &&& 0x00FFFFFF#32 = 0#32)) ∧
  (∀ r ∈ opcodeRows, r.selectedBy 0#32 = false ∧ r.selectedBy 0xFFFFFFFF#32 = false)

/-! ### The step (40_control.md R72) -/

/-- 40_control.md R72: a step of the running engine is exec of the instruction that the word at pc decodes to, at the
state the step begins in. The model takes the engine's move off its list of moves first (log 1). -/
def Obligations.StepRunsTheDecodedInstruction : Prop :=
  ∀ (s : State) (i : Instr), s.run = .running → engineMovesNext s → decode (s.readCmd s.pc.toNat) = .ok i →
    i.wellFormed = true ∧ step s = exec i s.popMove ∧ (s.inputs = [] → s.popMove = s)

/-- 00_scope.md R9, 10_state.md R34, 60_exceptions.md R157: the engine does nothing while IDLE. 40_control.md R72,
60_exceptions.md R150: a host access takes effect between engine steps. That a hard reset does so too, the model infers
(log 12: the spec does not time the reset input); that the moves stand in a list is its choice (log 1). -/
def Obligations.AStepIsOneMoveOfOneAgent : Prop :=
  ∀ s : State,
    (s.run = .idle → engineMovesNext s → step s = .next s.popMove) ∧
    (∀ a rest, s.inputs = .host a :: rest → step s = .next ((s.withInputs rest).hostAccess a)) ∧
    (∀ rest, s.inputs = .hardReset :: rest → step s = .next (s.withInputs rest).hardReset)

/-- 40_control.md R72, 60_exceptions.md R143: a fault is a next state, and no move of any agent stops the machine. -/
def Obligations.EveryStepHasANextState : Prop := ∀ s : State, ∃ t, step s = .next t

/-! ### Invariants and reset -/

/-- 10_state.md R24, R26, R27, R32; 60_exceptions.md R150: both invariants hold after a hard reset. The canonical form
of the memories and the table's form are the model's (logs 3, 6). -/
def Obligations.ResetMeetsTheInvariants : Prop := DataInv State.reset ∧ RunInv State.reset

/-- 10_state.md R24, R26, R27, R28, R32; 20_memory.md R46, R54: whatever any agent does, registers stay in their
bounds, coordinates and scalars stay reduced, and the memories stay within their sizes. Their canonical form and the
table's are the model's (logs 3, 6). -/
def Obligations.EveryStepKeepsTheDataInvariant : Prop :=
  ∀ s t : State, DataInv s → step s = .next t → DataInv t

/-- 60_exceptions.md R143, R150; 70_reset_and_hazards.md R162; 10_state.md R41, R44: DONE and FAULT are never both 1, a
run that goes on has recorded no cause, and after a fault CAUSE is a fault's code and PC = FAULT_PC. -/
def Obligations.EveryStepKeepsTheRunInvariant : Prop :=
  ∀ s t : State, RunInv s → step s = .next t → RunInv t

/-- 10_state.md R45: the values after a hard reset (State.reset, and hardReset of any state) and after a soft reset,
which keeps CMDMEM, DMEM and ENTRY. What a hard reset leaves unspecified is in UnwrittenMemoryKeepsItsValue. -/
def Obligations.ResetValues : Prop :=
  (∀ u : State, (u = State.reset ∨ ∃ s : State, u = s.hardReset ∨ u = s.softReset) →
    RegistersUnwritten u ∧ u.C = false ∧ u.K = 0#12 ∧ u.pc = 0#12 ∧ u.GCTX = false ∧ u.run = .idle ∧
    u.IRQ_EN = false ∧ u.statusWord = 0#32 ∧ u.CAUSE.code = 0#8 ∧ u.FAULT_PC = 0#12) ∧
  State.reset.ENTRY = 0#12 ∧
  (∀ s : State, s.hardReset.ENTRY = 0#12) ∧
  (∀ s : State, s.softReset.ENTRY = s.ENTRY ∧ KeepsMemory s s.softReset)

/-! ### Whole-machine rules -/

/-- 60_exceptions.md R146 with R143, R145: a word that is no instruction reports ILLEGAL before anything else; an
instruction reports the first cause, in the order of R146, whose condition holds, and when none holds it completes
without a fault. That the engine's move stands in a list and is taken off it first is the model's choice (log 1). -/
def Obligations.TheFirstFaultInPriorityIsReported : Prop :=
  (∀ (s : State) (e : Reject), s.run = .running → engineMovesNext s → decode s.fetch = .error e →
    step s = .next (s.popMove.takeFault .illegal)) ∧
  (∀ (i : Instr) (s : State) (c : Cause), firstFault i s = some c → exec i s = .next (s.takeFault c)) ∧
  (∀ (i : Instr) (s : State), firstFault i s = none → Yields i s fun t =>
    t.FAULT = s.FAULT ∧ t.CAUSE = s.CAUSE ∧ t.FAULT_PC = s.FAULT_PC ∧ (t.run = s.run ∨ i = .halt)) ∧
  faultPriority =
    [.illegal, .addr, .operand, .uninit, .noContext, .notNormalized, .magnitude, .infinity, .invZero]

/-- 60_exceptions.md R143, R145 ("raised by"): an instruction whose check phase raises a fault raises one of its own,
writes CAUSE, FAULT_PC, BUSY and FAULT and nothing else, and pc stays; every byte and word of memory reads as before. -/
def Obligations.FaultsAreEnteredPrecisely : Prop :=
  ∀ (i : Instr) (s : State) (c : Cause), firstFault i s = some c →
    c ∈ mayRaise i ∧ Yields i s fun t => KeepsMemory s t ∧
      t = { s with run := .idle, FAULT := true, CAUSE := c, FAULT_PC := s.pc }

/-- 10_state.md R30, R31; 60_exceptions.md R153: C is written by the listed instructions only, K by SETK and DJNZ only. -/
def Obligations.FlagAndCounterHaveListedWriters : Prop :=
  ∀ (i : Instr) (s t : State), exec i s = .next t →
    (t.C ≠ s.C → writesFlag i = true) ∧
    (t.K ≠ s.K → (∃ v, i = .setk v) ∨ ∃ tgt, i = .djnz tgt)

/-- 10_state.md R32: only the GCTX instruction sets GCTX, only a reset clears it, and while it is 1 nothing writes the
table. The list of moves and the table's form are the model's (logs 1, 6). -/
def Obligations.ContextRisesByGctxAndFallsByReset : Prop :=
  ∀ s t : State, step s = .next t →
    (s.GCTX = false → t.GCTX = true → engineMovesNext s ∧ s.run = .running ∧ decode s.fetch = .ok .gctx) ∧
    (s.GCTX = true → t.GCTX = false → (∃ rest, s.inputs = .hardReset :: rest) ∨
      ∃ v rest, v.getLsbD 2 = true ∧ s.inputs = .host ⟨.write v, 4, 0x004#17⟩ :: rest) ∧
    (s.GCTX = true → t.GCTX = true → t.genTable = s.genTable)

/-- 10_state.md R25: a register becomes normalized only by the listed instructions, FLD only when the loaded value is
below p, FMOV only when its source is. -/
def Obligations.NormalizedFlagHasListedWriters : Prop :=
  ∀ (i : Instr) (s t : State) (j : RegIdx), exec i s = .next t → t.F[j] ≠ s.F[j] → t.F[j].N = true →
    writesNormalized i = true ∧ destination i = some (.F j) ∧
    (∀ d slot, i = .fld d slot → s.memRead (slotAddr slot) 32 < P_FIELD) ∧
    (∀ d a, i = .fmov d a → s.F[a].N = true)

/-- 00_scope.md R13, R16; 10_state.md R23: no instruction changes a register other than its destination, and a register
that was written stays written. -/
def Obligations.OnlyTheDestinationRegisterChanges : Prop :=
  ∀ (i : Instr) (s t : State), exec i s = .next t →
    (∀ r : RegRef, destination i ≠ some r → SameRegister s t r) ∧
    (∀ r : RegRef, s.validBit r = true → t.validBit r = true)

/-- 20_memory.md R46, R54, R57, R62: an instruction changes no DMEM byte outside the bytes its slot names, an
instruction that stores nothing changes none, no instruction changes CMDMEM, and none touches what the host sets. -/
def Obligations.OnlyTheStoredBytesChange : Prop :=
  ∀ (i : Instr) (s t : State), exec i s = .next t →
    (∀ lo len, storedRange i = some (lo, len) → ∀ a, (a < lo ∨ lo + len ≤ a) → t.readByte a = s.readByte a) ∧
    (storedRange i = none → ∀ a, t.readByte a = s.readByte a) ∧
    (∀ j, t.readCmd j = s.readCmd j) ∧
    t.ENTRY = s.ENTRY ∧ t.IRQ_EN = s.IRQ_EN ∧ t.ACCERR = s.ACCERR ∧ t.CMDERR = s.CMDERR

/-- 10_state.md R29: an instruction that does not transfer control and does not fault advances pc by one mod 4096; HALT
and a faulting instruction leave it. -/
def Obligations.PlainInstructionsAdvance : Prop :=
  ∀ (i : Instr) (s t : State), exec i s = .next t →
    (firstFault i s = none → transfersControl i = false → t.pc.toNat = (s.pc.toNat + 1) % 4096) ∧
    ((firstFault i s ≠ none ∨ i = .halt) → t.pc = s.pc)

/-- 70_reset_and_hazards.md R162, 10_state.md R34: a run ends by HALT, by a fault or by a reset, and by nothing else;
one begins by a START command only. The list of moves is the model's (log 1). -/
def Obligations.RunsBeginAndEndAsListed : Prop :=
  ∀ s t : State, step s = .next t →
    (s.run = .running → t.run = .idle →
      (engineMovesNext s ∧ decode s.fetch = .ok .halt ∧ t.DONE = true ∧ t.FAULT = s.FAULT ∧ t.pc = s.pc) ∨
      (engineMovesNext s ∧ ∃ c, c ≠ .none ∧ t = s.popMove.takeFault c) ∨
      (∃ rest, s.inputs = .hardReset :: rest) ∨
      ∃ v rest, v.getLsbD 2 = true ∧ s.inputs = .host ⟨.write v, 4, 0x004#17⟩ :: rest) ∧
    (s.run = .idle → t.run = .running →
      ∃ v rest, v.getLsbD 2 = false ∧ v.getLsbD 0 = true ∧ s.inputs = .host ⟨.write v, 4, 0x004#17⟩ :: rest ∧
        t.pc = s.ENTRY)

/-- 20_memory.md R52: a byte or word that stays unwritten keeps its one value through every step but a hard reset, for
the engine and for the host alike; after a hard reset every byte and word is a free value, by the number of the reset
and the address (the form is the model's, log 3). -/
def Obligations.UnwrittenMemoryKeepsItsValue : Prop :=
  (∀ s t : State, step s = .next t → (∀ rest, s.inputs ≠ .hardReset :: rest) →
    (∀ a, Memory.get t.dmem a = none → Memory.get s.dmem a = none ∧ t.readByte a = s.readByte a) ∧
    (∀ j, Memory.get t.cmdmem j = none → Memory.get s.cmdmem j = none ∧ t.readCmd j = s.readCmd j)) ∧
  (∀ s : State, s.hardReset.powerUps = s.powerUps + 1 ∧
    (∀ a, s.hardReset.readByte a = dmemPowerUp (s.powerUps + 1) a) ∧
    (∀ j, s.hardReset.readCmd j = cmdmemPowerUp (s.powerUps + 1) j))

/-! ### Control (40_control.md R73-R79) -/

/-- 40_control.md R73-R79: HALT ends the run at its own index, JMP, BT and BF go to their target or on, SETK writes K,
DJNZ counts K down mod 4096 and branches while it is not 0, NOP only advances. Nothing else changes. -/
def Obligations.ControlInstructions : Prop :=
  ∀ (s : State) (tgt : Word12) (v : Nat),
    Yields .halt s (fun t => KeepsMemory s t ∧ t = { s with run := .idle, DONE := true }) ∧
    Yields (.jmp tgt) s (OnlyPc tgt s) ∧
    Yields (.bt tgt) s (OnlyPc (if s.C = true then tgt else s.pc + 1) s) ∧
    Yields (.bf tgt) s (OnlyPc (if s.C = true then s.pc + 1 else tgt) s) ∧
    Yields .nop s (OnlyPc (s.pc + 1) s) ∧
    (v < 4096 → Yields (.setk v) s fun t => t.K.toNat = v ∧ KeepsMemory s t ∧
      t = { s with K := t.K, pc := s.pc + 1 }) ∧
    Yields (.djnz tgt) s fun t => t.K.toNat = (s.K.toNat + 4095) % 4096 ∧ KeepsMemory s t ∧
      t = { s with K := t.K, pc := if s.K.toNat = 1 then s.pc + 1 else tgt }

/-! ### Memory and moves (20_memory.md R53, R55; 40_control.md R80-R91) -/

/-- 00_scope.md R14, 20_memory.md R55: MemWrite stores the value mod 2^(8 nb), the most significant byte first, and
changes no other byte; MemRead reads it back. -/
def Obligations.OperandsAreBigEndian : Prop :=
  ∀ (s : State) (addr nb v : Nat),
    (s.memWrite addr nb v).memRead addr nb = v % 256 ^ nb ∧
    (∀ i < nb, ((s.memWrite addr nb v).readByte (addr + i)).toNat = v / 256 ^ (nb - 1 - i) % 256) ∧
    (∀ a, (a < addr ∨ addr + nb ≤ a) → (s.memWrite addr nb v).readByte a = s.readByte a) ∧
    s.memRead addr (nb + 1) = (s.readByte addr).toNat * 256 ^ nb + s.memRead (addr + 1) nb

/-- 40_control.md R80, R82: FLD keeps the loaded value and reports v >= p, SLD reduces it mod n and reports v >= n. -/
def Obligations.LoadsReadASlot : Prop :=
  ∀ (s : State) (d : RegIdx) (slot : Nat), slot ≤ 127 →
    slotAddr slot = 32 * slot ∧
    Yields (.fld d slot) s (fun t =>
      t.F[d] = ⟨s.memRead (slotAddr slot) 32, 1, decide (s.memRead (slotAddr slot) 32 < P_FIELD), true⟩ ∧
      t.C = decide (P_FIELD ≤ s.memRead (slotAddr slot) 32) ∧ OnlyFC d s t) ∧
    Yields (.sld d slot) s (fun t =>
      t.S[d] = ⟨s.memRead (slotAddr slot) 32 % N_ORDER, true⟩ ∧
      t.C = decide (N_ORDER ≤ s.memRead (slotAddr slot) 32) ∧ OnlySC d s t)

/-- 40_control.md R81, R83: FST and SST store the register's value as 32 big-endian bytes at the slot, and a load of
the slot reads it back; no other byte changes. -/
def Obligations.StoresWriteASlot : Prop :=
  ∀ (s : State) (a : RegIdx) (slot : Nat), DataInv s → slot ≤ 127 →
    slotAddr slot = 32 * slot ∧
    (s.F[a].valid = true → s.F[a].N = true → Yields (.fst a slot) s fun t =>
      BytesAt t (slotAddr slot) (bytesBE 32 s.F[a].v) ∧ t.memRead (slotAddr slot) 32 = s.F[a].v ∧
      OnlyStore (slotAddr slot) 32 s t) ∧
    (s.S[a].valid = true → Yields (.sst a slot) s fun t =>
      BytesAt t (slotAddr slot) (bytesBE 32 s.S[a].v) ∧ t.memRead (slotAddr slot) 32 = s.S[a].v ∧
      OnlyStore (slotAddr slot) 32 s t)

/-- 40_control.md R84-R91: the moves copy a register with its tags, FSETI and SSETI write their constant, SFROMF
reduces a normalized field element mod n and reports v >= n, FFROMS takes a scalar as a field element. -/
def Obligations.MovesAndConstants : Prop :=
  ∀ (s : State) (d a : RegIdx) (v : Nat),
    (s.F[a].valid = true → Yields (.fmov d a) s fun t => t.F[d] = s.F[a] ∧ OnlyF d s t) ∧
    (s.S[a].valid = true → Yields (.smov d a) s fun t => t.S[d] = s.S[a] ∧ OnlyS d s t) ∧
    (s.A[a].valid = true → Yields (.amov d a) s fun t => t.A[d] = s.A[a] ∧ OnlyA d s t) ∧
    (s.J[a].valid = true → Yields (.jmov d a) s fun t => t.J[d] = s.J[a] ∧ OnlyJ d s t) ∧
    Yields (.fseti d v) s (fun t => t.F[d] = ⟨v, 1, true, true⟩ ∧ OnlyF d s t) ∧
    Yields (.sseti d v) s (fun t => t.S[d] = ⟨v, true⟩ ∧ OnlyS d s t) ∧
    (s.F[a].valid = true → s.F[a].N = true → Yields (.sfromf d a) s fun t =>
      t.S[d] = ⟨s.F[a].v % N_ORDER, true⟩ ∧ t.C = decide (N_ORDER ≤ s.F[a].v) ∧ OnlySC d s t) ∧
    (s.S[a].valid = true → Yields (.ffroms d a) s fun t => t.F[d] = ⟨s.S[a].v, 1, true, true⟩ ∧ OnlyF d s t)

/-! ### Field (41_field.md) -/

/-- 41_field.md R93-R96, R98, R99: the sum is not reduced and its magnitudes add; the negation is (M+1)p - v, a residue
of -v of magnitude M+1; products and squares are reduced mod p but not marked normalized; both normalizations write the
canonical representative. -/
def Obligations.FieldArithmetic : Prop :=
  ∀ (s : State) (d a b : RegIdx) (M : Nat), DataInv s → s.F[a].valid = true → s.F[b].valid = true →
    (s.F[a].m + s.F[b].m ≤ 32 → Yields (.fadd d a b) s fun t =>
      t.F[d] = ⟨s.F[a].v + s.F[b].v, s.F[a].m + s.F[b].m, false, true⟩ ∧ OnlyF d s t) ∧
    (1 ≤ M → M ≤ 31 → s.F[a].m ≤ M → Yields (.fneg d a M) s fun t =>
      t.F[d] = ⟨(M + 1) * P_FIELD - s.F[a].v, M + 1, false, true⟩ ∧ (t.F[d].v + s.F[a].v) % P_FIELD = 0 ∧
      1 ≤ t.F[d].v ∧ OnlyF d s t) ∧
    (s.F[a].m ≤ 8 → s.F[b].m ≤ 8 → Yields (.fmul d a b) s fun t =>
      t.F[d] = ⟨s.F[a].v * s.F[b].v % P_FIELD, 1, false, true⟩ ∧ OnlyF d s t) ∧
    (s.F[a].m ≤ 8 → Yields (.fsqr d a) s fun t =>
      t.F[d] = ⟨s.F[a].v * s.F[a].v % P_FIELD, 1, false, true⟩ ∧ OnlyF d s t) ∧
    Yields (.fnorm d a) s (fun t => t.F[d] = ⟨s.F[a].v % P_FIELD, 1, true, true⟩ ∧ OnlyF d s t) ∧
    Yields (.fnormv d a) s (fun t => t.F[d] = ⟨s.F[a].v % P_FIELD, 1, true, true⟩ ∧ OnlyF d s t)

/-- 41_field.md R97: FMULM writes the reduced x y 2^-256 mod p: the one residue below p that times 2^256 is x y. -/
def Obligations.FieldMontgomeryProduct : Prop :=
  ∀ (s : State) (d a b : RegIdx), s.F[a].valid = true → s.F[b].valid = true → s.F[a].m ≤ 8 → s.F[b].m ≤ 8 →
    Yields (.fmulm d a b) s fun t =>
      t.F[d].v * 2 ^ 256 % P_FIELD = s.F[a].v * s.F[b].v % P_FIELD ∧ t.F[d].v < P_FIELD ∧
      t.F[d].m = 1 ∧ t.F[d].N = false ∧ t.F[d].valid = true ∧ OnlyF d s t

/-- 41_field.md R100: FINV writes the one residue below p whose product with the operand is 1 mod p. -/
def Obligations.FieldInverse : Prop :=
  ∀ (s : State) (d a : RegIdx), s.F[a].valid = true → s.F[a].m ≤ 8 → s.F[a].v % P_FIELD ≠ 0 →
    Yields (.finv d a) s fun t =>
      s.F[a].v * t.F[d].v % P_FIELD = 1 ∧ t.F[d].v < P_FIELD ∧
      t.F[d].m = 1 ∧ t.F[d].N = false ∧ t.F[d].valid = true ∧ OnlyF d s t

/-- 41_field.md R101: FSQRT sets C exactly when the operand has a square root mod p. It then writes the root that is
itself a square, which is the candidate a^((p+1)/4); without a root it writes no register. -/
def Obligations.FieldSquareRoot : Prop :=
  ∀ (s : State) (d a : RegIdx), s.F[a].valid = true → s.F[a].m ≤ 8 →
    ((∃ y, y * y % P_FIELD = s.F[a].v % P_FIELD) → Yields (.fsqrt d a) s fun t =>
      t.F[d].v * t.F[d].v % P_FIELD = s.F[a].v % P_FIELD ∧ t.F[d].v < P_FIELD ∧
      (∃ z, z * z % P_FIELD = t.F[d].v) ∧
      t.F[d].m = 1 ∧ t.F[d].N = false ∧ t.F[d].valid = true ∧ t.C = true ∧ OnlyFC d s t) ∧
    ((¬ ∃ y, y * y % P_FIELD = s.F[a].v % P_FIELD) → Yields (.fsqrt d a) s fun t => t.C = false ∧ OnlyC s t)

/-- 41_field.md R102-R105: zero, parity, equality and order of normalized values, into C alone. -/
def Obligations.FieldTests : Prop :=
  ∀ (s : State) (a b : RegIdx), s.F[a].valid = true → s.F[a].N = true →
    Yields (.fisz a) s (fun t => t.C = decide (s.F[a].v = 0) ∧ OnlyC s t) ∧
    Yields (.fisodd a) s (fun t => t.C = decide (s.F[a].v % 2 = 1) ∧ OnlyC s t) ∧
    (s.F[b].valid = true → s.F[b].N = true →
      Yields (.feq a b) s (fun t => t.C = decide (s.F[a].v = s.F[b].v) ∧ OnlyC s t) ∧
      Yields (.flt a b) s (fun t => t.C = decide (s.F[a].v < s.F[b].v) ∧ OnlyC s t))

/-! ### Scalar (42_scalar.md) -/

/-- 42_scalar.md R106-R108: sum, negation and product mod n; the negation of 0 is 0, and a + (-a) = 0. -/
def Obligations.ScalarArithmetic : Prop :=
  ∀ (s : State) (d a b : RegIdx), DataInv s → s.S[a].valid = true → s.S[b].valid = true →
    Yields (.sadd d a b) s (fun t => t.S[d] = ⟨(s.S[a].v + s.S[b].v) % N_ORDER, true⟩ ∧ OnlyS d s t) ∧
    Yields (.sneg d a) s (fun t => t.S[d] = ⟨(N_ORDER - s.S[a].v) % N_ORDER, true⟩ ∧
      (t.S[d].v + s.S[a].v) % N_ORDER = 0 ∧ OnlyS d s t) ∧
    Yields (.smul d a b) s (fun t => t.S[d] = ⟨s.S[a].v * s.S[b].v % N_ORDER, true⟩ ∧ OnlyS d s t)

/-- 42_scalar.md R109, R110: SMULM writes x y 2^-256 mod n, the one scalar that times 2^256 is x y; SINV writes the one
scalar whose product with the operand is 1 mod n. -/
def Obligations.ScalarMontgomeryAndInverse : Prop :=
  ∀ (s : State) (d a b : RegIdx), DataInv s → s.S[a].valid = true →
    (s.S[b].valid = true → Yields (.smulm d a b) s fun t =>
      t.S[d].v * 2 ^ 256 % N_ORDER = s.S[a].v * s.S[b].v % N_ORDER ∧ t.S[d].v < N_ORDER ∧
      t.S[d].valid = true ∧ OnlyS d s t) ∧
    (s.S[a].v ≠ 0 → Yields (.sinv d a) s fun t =>
      s.S[a].v * t.S[d].v % N_ORDER = 1 ∧ t.S[d].v < N_ORDER ∧ t.S[d].valid = true ∧ OnlyS d s t)

/-- 42_scalar.md R111-R114: zero, equality, order and high-half tests, into C alone; of a nonzero scalar and its
negation exactly one is high. -/
def Obligations.ScalarTests : Prop :=
  ∀ (s : State) (a b : RegIdx), DataInv s → s.S[a].valid = true → s.S[b].valid = true →
    Yields (.sisz a) s (fun t => t.C = decide (s.S[a].v = 0) ∧ OnlyC s t) ∧
    Yields (.seq a b) s (fun t => t.C = decide (s.S[a].v = s.S[b].v) ∧ OnlyC s t) ∧
    Yields (.slt a b) s (fun t => t.C = decide (s.S[a].v < s.S[b].v) ∧ OnlyC s t) ∧
    Yields (.shigh a) s (fun t => t.C = decide ((N_ORDER - 1) / 2 < s.S[a].v) ∧ OnlyC s t) ∧
    (s.S[a].v ≠ 0 → s.S[b].v = N_ORDER - s.S[a].v → Yields (.shigh a) s fun t =>
      Yields (.shigh b) s fun u => t.C = !u.C)

/-- 42_scalar.md R115, 00_scope.md R20: SWNAF stores 257 signed digits, digit 0 first, as two's-complement bytes. They
are the width-w non-adjacent form of the scalar: their value is the scalar, every nonzero digit is odd and at most
2^(w-1) - 1 in absolute value, and of any w consecutive digits at most one is nonzero. -/
def Obligations.SignedDigitsOfAScalar : Prop :=
  ∀ (s : State) (slot w : Nat) (a : RegIdx), DataInv s → slot ≤ 119 → 2 ≤ w → w ≤ 8 → s.S[a].valid = true →
    ∃ ds : List Int, ds.length = 257 ∧
      ds.foldr (fun d acc => d + 2 * acc) 0 = (s.S[a].v : Int) ∧
      (∀ d ∈ ds, d ≠ 0 → d % 2 = 1 ∧ |d| ≤ 2 ^ (w - 1) - 1) ∧
      (∀ (i j : Nat) (hi : i < ds.length) (hj : j < ds.length), i < j → j < i + w → ds[i] ≠ 0 → ds[j] = 0) ∧
      Yields (.swnaf slot a w) s fun t =>
        BytesAt t (slotAddr slot) (ds.map (BitVec.ofInt 8)) ∧ OnlyStore (slotAddr slot) 257 s t

/-! ### Group (43_group.md) -/

/-- 43_group.md R117-R121: PSETXY reduces two field elements to coordinates without a curve check, PSETINF and PLDG
write infinity and the generator, PGETX and PGETY read a coordinate as a normalized field element. -/
def Obligations.AffineConstruction : Prop :=
  ∀ (s : State) (d a b : RegIdx) (x y : Nat),
    (s.F[a].valid = true → s.F[b].valid = true → Yields (.psetxy d a b) s fun t =>
      t.A[d] = ⟨.aff (s.F[a].v % P_FIELD) (s.F[b].v % P_FIELD), true⟩ ∧ OnlyA d s t) ∧
    Yields (.psetinf d) s (fun t => t.A[d] = ⟨.inf, true⟩ ∧ OnlyA d s t) ∧
    Yields (.pldg d) s (fun t => t.A[d] = ⟨.aff GX GY, true⟩ ∧ OnlyA d s t) ∧
    (s.A[a].valid = true → s.A[a].pt = .aff x y →
      Yields (.pgetx d a) s (fun t => t.F[d] = ⟨x, 1, true, true⟩ ∧ OnlyF d s t) ∧
      Yields (.pgety d a) s (fun t => t.F[d] = ⟨y, 1, true, true⟩ ∧ OnlyF d s t))

/-- 43_group.md R122, R123, R128: the curve test and the two infinity tests, into C alone. -/
def Obligations.PointTests : Prop :=
  ∀ (s : State) (a : RegIdx),
    (s.A[a].valid = true →
      Yields (.pvalid a) s (fun t => OnlyC s t ∧ (s.A[a].pt = .inf → t.C = false) ∧
        ∀ x y, s.A[a].pt = .aff x y → t.C = decide (y ^ 2 % P_FIELD = (x ^ 3 + 7) % P_FIELD)) ∧
      Yields (.pisinf a) s (fun t => t.C = decide (s.A[a].pt = .inf) ∧ OnlyC s t)) ∧
    (s.J[a].valid = true → Yields (.jisinf a) s fun t => t.C = decide (s.J[a].pt = .inf) ∧ OnlyC s t)

/-- 43_group.md R124-R127, R129: the negations negate the ordinate mod p and keep infinity, on the curve or off it;
JSETINF writes infinity; the conversions keep the point. -/
def Obligations.NegationAndConversion : Prop :=
  ∀ (s : State) (d a : RegIdx),
    (s.A[a].valid = true →
      Yields (.pneg d a) s (fun t => OnlyA d s t ∧ t.A[d].valid = true ∧ (s.A[a].pt = .inf → t.A[d].pt = .inf) ∧
        ∀ x y, s.A[a].pt = .aff x y → t.A[d].pt = .aff x ((P_FIELD - y) % P_FIELD)) ∧
      Yields (.jfroma d a) s (fun t => t.J[d] = ⟨s.A[a].pt, true⟩ ∧ OnlyJ d s t)) ∧
    Yields (.jsetinf d) s (fun t => t.J[d] = ⟨.inf, true⟩ ∧ OnlyJ d s t) ∧
    (s.J[a].valid = true →
      Yields (.jneg d a) s (fun t => OnlyJ d s t ∧ t.J[d].valid = true ∧ (s.J[a].pt = .inf → t.J[d].pt = .inf) ∧
        ∀ x y, s.J[a].pt = .aff x y → t.J[d].pt = .aff x ((P_FIELD - y) % P_FIELD)) ∧
      Yields (.jtoa d a) s (fun t => t.A[d] = ⟨s.J[a].pt, true⟩ ∧ OnlyA d s t))

/-- 43_group.md R130-R132, 00_scope.md R18: on the curve, JDBL writes Dbl of its operand, JADDA and JADD write Add of
theirs. -/
def Obligations.GroupInstructionsOnTheCurve : Prop :=
  ∀ (s : State) (d a b : RegIdx), s.J[a].valid = true → s.J[a].pt.onCurve = true →
    Yields (.jdbl d a) s (fun t => t.J[d] = ⟨s.J[a].pt.dbl, true⟩ ∧ OnlyJ d s t) ∧
    (s.A[b].valid = true → s.A[b].pt.onCurve = true → Yields (.jadda d a b) s fun t =>
      t.J[d] = ⟨s.J[a].pt.add s.A[b].pt, true⟩ ∧ OnlyJ d s t) ∧
    (s.J[b].valid = true → s.J[b].pt.onCurve = true → Yields (.jadd d a b) s fun t =>
      t.J[d] = ⟨s.J[a].pt.add s.J[b].pt, true⟩ ∧ OnlyJ d s t)

/-- 00_scope.md R18: the sum of two points with different abscissas lies on their chord, the double of a point with a
nonzero ordinate on its tangent, mirrored; the special cases are infinity, the point itself and P + (-P). -/
def Obligations.AdditionIsChordAndTangent : Prop :=
  (∀ x1 y1 x2 y2 : Nat, x1 < P_FIELD → x2 < P_FIELD → x1 ≠ x2 →
    ∃ l x3 y3 : Nat, (Point.aff x1 y1).add (.aff x2 y2) = .aff x3 y3 ∧ x3 < P_FIELD ∧ y3 < P_FIELD ∧
      (l * ((x2 : Int) - x1) ≡ (y2 : Int) - y1 [ZMOD P_FIELD]) ∧
      ((x3 : Int) ≡ l ^ 2 - x1 - x2 [ZMOD P_FIELD]) ∧ ((y3 : Int) ≡ l * ((x1 : Int) - x3) - y1 [ZMOD P_FIELD])) ∧
  (∀ x y : Nat, 0 < y → y < P_FIELD →
    ∃ l x3 y3 : Nat, (Point.aff x y).dbl = .aff x3 y3 ∧ x3 < P_FIELD ∧ y3 < P_FIELD ∧
      (l * (2 * (y : Int)) ≡ 3 * (x : Int) ^ 2 [ZMOD P_FIELD]) ∧
      ((x3 : Int) ≡ l ^ 2 - 2 * x [ZMOD P_FIELD]) ∧ ((y3 : Int) ≡ l * ((x : Int) - x3) - y [ZMOD P_FIELD])) ∧
  (∀ x : Nat, (Point.aff x 0).dbl = .inf) ∧ Point.inf.dbl = .inf ∧
  (∀ Q : Point, Point.inf.add Q = Q ∧ Q.add .inf = Q ∧ Q.add Q = Q.dbl) ∧
  (∀ x y y' : Nat, y ≠ y' → (Point.aff x y).add (.aff x y') = .inf)

/-- 43_group.md R131, R132 and 00_scope.md R18: on the curve, addition is closed, associative and commutative, infinity
is its identity and the negation its inverse. -/
def Obligations.TheCurveIsAGroup : Prop :=
  ∀ P Q R : Point, P.onCurve = true → P.reduced = true → Q.onCurve = true → Q.reduced = true →
    R.onCurve = true → R.reduced = true →
    (P.add Q).onCurve = true ∧ (P.add Q).reduced = true ∧ P.neg.onCurve = true ∧ P.neg.reduced = true ∧
    (P.add Q).add R = P.add (Q.add R) ∧ P.add Q = Q.add P ∧ P.add .inf = P ∧ P.add P.neg = .inf

/-- 43_group.md R116, 00_scope.md R19: with an operand off the curve, the group-law and multiply instructions write
their destination with a free point and do everything else as usual. Which point is the model's free value (log 5). -/
def Obligations.OffCurveOperandsGiveAFreePoint : Prop :=
  (∀ k, (drawnPoint k).reduced = true) ∧
  ∀ (s : State) (d a b c : RegIdx),
    (s.J[a].valid = true → s.J[a].pt.onCurve = false → Yields (.jdbl d a) s fun t =>
      t.J[d] = ⟨drawnPoint s.draws, true⟩ ∧ t.draws = s.draws + 1 ∧ OnlyJDraw d s t) ∧
    (s.J[a].valid = true → s.A[b].valid = true → (s.J[a].pt.onCurve = false ∨ s.A[b].pt.onCurve = false) →
      Yields (.jadda d a b) s fun t =>
        t.J[d] = ⟨drawnPoint s.draws, true⟩ ∧ t.draws = s.draws + 1 ∧ OnlyJDraw d s t) ∧
    (s.J[a].valid = true → s.J[b].valid = true → (s.J[a].pt.onCurve = false ∨ s.J[b].pt.onCurve = false) →
      Yields (.jadd d a b) s fun t =>
        t.J[d] = ⟨drawnPoint s.draws, true⟩ ∧ t.draws = s.draws + 1 ∧ OnlyJDraw d s t) ∧
    (s.S[a].valid = true → s.A[b].valid = true → s.A[b].pt.onCurve = false → Yields (.pmul d a b) s fun t =>
      t.J[d] = ⟨drawnPoint s.draws, true⟩ ∧ t.draws = s.draws + 1 ∧ OnlyJDraw d s t) ∧
    (s.S[a].valid = true → s.S[b].valid = true → s.A[c].valid = true → s.GCTX = true →
      s.A[c].pt.onCurve = false → Yields (.pmulgq d a b c) s fun t =>
        t.J[d] = ⟨drawnPoint s.draws, true⟩ ∧ t.draws = s.draws + 1 ∧ OnlyJDraw d s t)

/-! ### Multiply (44_multiply.md) -/

/-- 44_multiply.md R133: GCTX builds the table once and sets the context bit; a second GCTX changes nothing but pc.
That the table is a list is the model's form (log 6). -/
def Obligations.GctxBuildsTheTableOnce : Prop :=
  ∀ s : State,
    Yields .gctx s (fun t => KeepsMemory s t ∧ t.GCTX = true ∧
      (s.GCTX = false → ∀ Q, Q ∈ t.genTable ↔ ∃ j, j % 2 = 1 ∧ j ≤ 2 ^ (W_GEN - 1) - 1 ∧ Q = Point.gen.mulSpec j) ∧
      t = { s with GCTX := true, genTable := t.genTable, pc := s.pc + 1 }) ∧
    (s.GCTX = true → Yields .gctx s (OnlyPc (s.pc + 1) s))

/-- 44_multiply.md R134-R136: PMUL, PMULG and PMULGQ write the multiples that 00_scope.md R18 defines by repeated
addition. The model computes them by doubling (log 7); this says that it may. -/
def Obligations.MultipliesAreRepeatedAddition : Prop :=
  ∀ (s : State) (d a b c : RegIdx), DataInv s → s.S[a].valid = true →
    (s.A[c].valid = true → s.A[c].pt.onCurve = true → Yields (.pmul d a c) s fun t =>
      t.J[d] = ⟨s.A[c].pt.mulSpec s.S[a].v, true⟩ ∧ OnlyJ d s t) ∧
    (s.GCTX = true → Yields (.pmulg d a) s fun t =>
      t.J[d] = ⟨(Point.aff GX GY).mulSpec s.S[a].v, true⟩ ∧ OnlyJ d s t) ∧
    (s.GCTX = true → s.S[b].valid = true → s.A[c].valid = true → s.A[c].pt.onCurve = true →
      Yields (.pmulgq d a b c) s fun t =>
        t.J[d] = ⟨((Point.aff GX GY).mulSpec s.S[a].v).add (s.A[c].pt.mulSpec s.S[b].v), true⟩ ∧ OnlyJ d s t)

/-- 44_multiply.md R137: the multiples of G for the scalars 0, 1, 2, 3 and n - 1, by PMUL, PMULG and PMULGQ (as
k*G + 0*G and 0*G + k*G), and that they are the repeated addition of 00_scope.md R18. -/
def Obligations.ReferenceMultiples : Prop :=
  ∀ (k : Nat) (Q : Point),
    (k, Q) ∈ [(0, Point.inf), (1, .aff GX GY),
      (2, .aff 0xC6047F9441ED7D6D3045406E95C07CD85C778E4B8CEF3CA7ABAC09B95C709EE5
        0x1AE168FEA63DC339A3C58419466CEAEEF7F632653266D0E1236431A950CFE52A),
      (3, .aff 0xF9308A019258C31049344F85F89D5229B531C845836F99B08601F113BCE036F9
        0x388F7B0F632DE8140FE337E62A37F3566500A99934C2231B6CB9FD7584B8E672),
      (N_ORDER - 1, .aff GX 0xB7C52588D95C3B9AA25B0403F1EEF75702E84BB7597AABE663B82F6F04EF2777)] →
    (Point.aff GX GY).mulSpec k = Q ∧
    ∀ (s : State) (d a b c : RegIdx), s.S[a] = ⟨k, true⟩ → s.S[b] = ⟨0, true⟩ → s.A[c] = ⟨.aff GX GY, true⟩ →
      s.GCTX = true →
      Yields (.pmul d a c) s (fun t => t.J[d].pt = Q) ∧ Yields (.pmulg d a) s (fun t => t.J[d].pt = Q) ∧
      Yields (.pmulgq d a b c) s (fun t => t.J[d].pt = Q) ∧ Yields (.pmulgq d b a c) s (fun t => t.J[d].pt = Q)

/-- 00_scope.md R5 ("number of points on the curve"), R18 (Mul(n, P) = Inf), 44_multiply.md R134 (k = n - 1 gives
Neg(P)): every point of the curve but infinity has order n. -/
def Obligations.PointsOfTheCurveHaveOrderN : Prop :=
  ∀ Q : Point, Q.onCurve = true → Q.reduced = true →
    Q.mulSpec N_ORDER = .inf ∧ Q.mulSpec (N_ORDER - 1) = Q.neg ∧
    (Q ≠ .inf → ∀ k, Q.mulSpec k = .inf ↔ N_ORDER ∣ k)

/-! ### ECDSA (45_ecdsa.md) -/

/-- 45_ecdsa.md R138-R140: with R = k G, r = R.x mod n and the sv of k sv = h + r d (mod n), ESIGN stores r, the low
member of sv and n - sv, and the recovery id, and sets C; when R is infinity, r = 0 or sv = 0 it clears C and stores
nothing. -/
def Obligations.SignWritesTheSignature : Prop :=
  ∀ (s : State) (slot : Nat) (h d k : RegIdx), DataInv s → slot ≤ 125 → s.S[h].valid = true → s.S[d].valid = true →
    s.S[k].valid = true → s.GCTX = true →
    ((Point.aff GX GY).mulSpec s.S[k].v = .inf → Yields (.esign slot h d k) s fun t => t.C = false ∧ OnlyC s t) ∧
    ∀ x y sv : Nat, (Point.aff GX GY).mulSpec s.S[k].v = .aff x y → sv < N_ORDER →
      s.S[k].v * sv % N_ORDER = (s.S[h].v + x % N_ORDER * s.S[d].v) % N_ORDER →
      ((x % N_ORDER = 0 ∨ sv = 0) → Yields (.esign slot h d k) s fun t => t.C = false ∧ OnlyC s t) ∧
      (x % N_ORDER ≠ 0 → sv ≠ 0 → Yields (.esign slot h d k) s fun t =>
        BytesAt t (slotAddr slot)
          (bytesBE 32 (x % N_ORDER) ++ bytesBE 32 (if (N_ORDER - 1) / 2 < sv then N_ORDER - sv else sv) ++
            [BitVec.ofNat 8 (2 * (if N_ORDER ≤ x then 1 else 0)
              + (if (N_ORDER - 1) / 2 < sv then 1 - y % 2 else y % 2))]) ∧
        t.C = true ∧ OnlyStoreC (slotAddr slot) 65 s t)

/-- 45_ecdsa.md R141: EVERIFY clears C for an r or s outside [1, n) or a key that is infinity or off the curve, without
a fault. Otherwise C says whether u1 G + u2 Q has r as its abscissa mod n, where s u1 = h and s u2 = r (mod n). -/
def Obligations.VerifyWritesTheVerdict : Prop :=
  ∀ (s : State) (q h : RegIdx) (slot r sv : Nat), DataInv s → slot ≤ 126 → s.A[q].valid = true →
    s.S[h].valid = true → s.GCTX = true → r = s.memRead (slotAddr slot) 32 →
    sv = s.memRead (slotAddr slot + 32) 32 →
    ((r = 0 ∨ N_ORDER ≤ r ∨ sv = 0 ∨ N_ORDER ≤ sv ∨ s.A[q].pt = .inf ∨ s.A[q].pt.onCurve = false) →
      Yields (.everify q h slot) s fun t => t.C = false ∧ OnlyC s t) ∧
    (r ≠ 0 → r < N_ORDER → sv ≠ 0 → sv < N_ORDER → s.A[q].pt ≠ .inf → s.A[q].pt.onCurve = true →
      ∀ u1 u2 : Nat, u1 < N_ORDER → u2 < N_ORDER → sv * u1 % N_ORDER = s.S[h].v → sv * u2 % N_ORDER = r →
        Yields (.everify q h slot) s fun t => OnlyC s t ∧
          (t.C = true ↔ ∃ x y,
            ((Point.aff GX GY).mulSpec u1).add (s.A[q].pt.mulSpec u2) = .aff x y ∧ x % N_ORDER = r))

/-- 45_ecdsa.md R142: ERECOVER clears C and writes no register for a recovery id above 3, an r or s outside [1, n), an
abscissa x = r + (id div 2) n not below p or not on the curve, or a key at infinity. Otherwise it writes the key
u1 G + u2 (x, y), y of the parity the id names, where r u1 = -h and r u2 = s (mod n), and sets C. -/
def Obligations.RecoverWritesTheKey : Prop :=
  ∀ (s : State) (d h : RegIdx) (slot r sv rid x : Nat), DataInv s → slot ≤ 125 → s.S[h].valid = true →
    s.GCTX = true → r = s.memRead (slotAddr slot) 32 → sv = s.memRead (slotAddr slot + 32) 32 →
    rid = (s.readByte (slotAddr slot + 64)).toNat → x = r + rid / 2 * N_ORDER →
    ((3 < rid ∨ r = 0 ∨ N_ORDER ≤ r ∨ sv = 0 ∨ N_ORDER ≤ sv ∨ P_FIELD ≤ x ∨
        ¬ ∃ y, y ^ 2 % P_FIELD = (x ^ 3 + 7) % P_FIELD) →
      Yields (.erecover d h slot) s fun t => t.C = false ∧ OnlyC s t) ∧
    (rid ≤ 3 → r ≠ 0 → r < N_ORDER → sv ≠ 0 → sv < N_ORDER → x < P_FIELD →
      ∀ y u1 u2 : Nat, y < P_FIELD → y ^ 2 % P_FIELD = (x ^ 3 + 7) % P_FIELD → y % 2 = rid % 2 →
        u1 < N_ORDER → u2 < N_ORDER → (r * u1 + s.S[h].v) % N_ORDER = 0 → r * u2 % N_ORDER = sv →
        (((Point.aff GX GY).mulSpec u1).add ((Point.aff x y).mulSpec u2) = .inf →
          Yields (.erecover d h slot) s fun t => t.C = false ∧ OnlyC s t) ∧
        (((Point.aff GX GY).mulSpec u1).add ((Point.aff x y).mulSpec u2) ≠ .inf →
          Yields (.erecover d h slot) s fun t =>
            t.A[d] = ⟨((Point.aff GX GY).mulSpec u1).add ((Point.aff x y).mulSpec u2), true⟩ ∧
            t.C = true ∧ OnlyAC d s t))

/-- 95_test_vectors.md L1.6 (the source's round trip), 45_ecdsa.md R140-R142: what ESIGN stores verifies under d G, and
ERECOVER gets d G back from it. -/
def Obligations.SignedHashesVerifyAndRecover : Prop :=
  ∀ (s t : State) (slot : Nat) (h d k q e : RegIdx), DataInv s → slot ≤ 125 → s.S[h].valid = true →
    s.S[d].valid = true → s.S[d].v ≠ 0 → s.S[k].valid = true → s.GCTX = true →
    s.A[q] = ⟨(Point.aff GX GY).mulSpec s.S[d].v, true⟩ →
    exec (.esign slot h d k) s = .next t → t.C = true →
    Yields (.everify q h slot) t (fun u => u.C = true) ∧
    Yields (.erecover e h slot) t (fun u => u.C = true ∧ u.A[e] = s.A[q])

/-- 45_ecdsa.md R142: every key ERECOVER returns verifies, and it is on the curve. -/
def Obligations.RecoveredKeysVerify : Prop :=
  ∀ (s t : State) (slot : Nat) (h e : RegIdx), DataInv s → slot ≤ 125 → s.S[h].valid = true → s.GCTX = true →
    exec (.erecover e h slot) s = .next t → t.C = true →
    t.A[e].pt.isValid = true ∧ Yields (.everify e h slot) t (fun u => u.C = true)

/-! ### The host (10_state.md R35-R44, 20_memory.md R47-R51) -/

/-- 10_state.md R44: START while RUNNING only sets CMDERR; while IDLE it goes to ENTRY, clears DONE, FAULT, CAUSE and
FAULT_PC and starts the engine. Registers, C, K, GCTX and the memories stay. -/
def Obligations.StartCommand : Prop :=
  ∀ (s : State) (v : Word), v.getLsbD 0 = true → v.getLsbD 2 = false →
    ∀ t, t = s.hostAccess ⟨.write v, 4, 0x004#17⟩ →
      (t.F = s.F ∧ t.S = s.S ∧ t.A = s.A ∧ t.J = s.J ∧ t.C = s.C ∧ t.K = s.K ∧ t.GCTX = s.GCTX ∧
        t.genTable = s.genTable ∧ t.ENTRY = s.ENTRY ∧ t.ACCERR = s.ACCERR ∧ KeepsMemory s t) ∧
      (s.run = .running → t.CMDERR = true ∧ t.run = .running ∧ t.pc = s.pc ∧ t.DONE = s.DONE ∧
        t.FAULT = s.FAULT ∧ t.CAUSE = s.CAUSE ∧ t.FAULT_PC = s.FAULT_PC) ∧
      (s.run = .idle → t.CMDERR = s.CMDERR ∧ t.run = .running ∧ t.pc = s.ENTRY ∧ t.DONE = false ∧
        t.FAULT = false ∧ t.CAUSE.code = 0#8 ∧ t.FAULT_PC = 0#12)

/-- 10_state.md R37, 70_reset_and_hazards.md R159: a 1 in SOFT_RESET resets whatever the rest of the write says;
without it and without START only IRQ_EN changes, to bit 1. That IRQ_EN also takes bit 1 of a START write is read from
R37 (log 13). A read gives IRQ_EN in bit 1 and changes nothing. The form of the bus answer, and the 0 that answers a
write, are the model's choice (log 10). -/
def Obligations.ControlRegisterWrites : Prop :=
  ∀ (s : State) (v : Word) (t : State), t = s.hostAccess ⟨.write v, 4, 0x004#17⟩ →
    (v.getLsbD 2 = true → t = s.softReset.respond 0#32 false) ∧
    (v.getLsbD 2 = false → t.IRQ_EN = v.getLsbD 1) ∧
    (v.getLsbD 2 = false → v.getLsbD 0 = false → t = { s with IRQ_EN := v.getLsbD 1 }.respond 0#32 false) ∧
    s.hostAccess ⟨.read, 4, 0x004#17⟩ = { s with response := ⟨if s.IRQ_EN = true then 2#32 else 0#32, false⟩ }

/-- 20_memory.md R51: while BUSY, a host access to DMEM or CMDMEM is dropped and reads 0, and sets ACCERR; an access to
the control registers is honoured in either run state. -/
def Obligations.BusyMemoryAccessIsDropped : Prop :=
  (∀ (s : State) (op : BusOp) (off : BitVec 17), s.run = .running → off.toNat % 4 = 0 →
    (0x1000 ≤ off.toNat ∧ off.toNat < 0x2000 ∨ 0x10000 ≤ off.toNat ∧ off.toNat < 0x14000) →
    KeepsMemory s (s.hostAccess ⟨op, 4, off⟩) ∧
    (op = .read → (s.hostAccess ⟨op, 4, off⟩).response.data = 0#32) ∧
    s.hostAccess ⟨op, 4, off⟩ = { s with ACCERR := true, response := (s.hostAccess ⟨op, 4, off⟩).response }) ∧
  (∀ (s : State) (op : BusOp) (off : BitVec 17), off.toNat % 4 = 0 → off.toNat < 0x100 →
    s.hostAccess ⟨op, 4, off⟩ = s.honour op (windowTarget off.toNat))

/-- 20_memory.md R49: a host word covers four DMEM bytes, the lowest address in bits 7:0; the most significant byte of
a slot's operand is therefore bits 7:0 of the slot's first word, and the value 7 in slot 0 is 0x07000000 at 0x0101C.
A write changes DMEM only and a read nothing, beside the answer on the bus. -/
def Obligations.HostWordsAreLittleEndianLanes : Prop :=
  ∀ (s : State) (off : BitVec 17) (v : Word), s.run = .idle → off.toNat % 4 = 0 → 0x1000 ≤ off.toNat →
    off.toNat < 0x2000 →
    (∀ i < 4, (s.hostAccess ⟨.read, 4, off⟩).response.data.extractLsb' (8 * i) 8 = s.readByte (off.toNat - 0x1000 + i)) ∧
    (∀ i < 4, (s.hostAccess ⟨.write v, 4, off⟩).readByte (off.toNat - 0x1000 + i) = v.extractLsb' (8 * i) 8) ∧
    (∀ a, (a < off.toNat - 0x1000 ∨ off.toNat - 0x1000 + 4 ≤ a) →
      (s.hostAccess ⟨.write v, 4, off⟩).readByte a = s.readByte a) ∧
    s.hostAccess ⟨.write v, 4, off⟩ = { s with dmem := (s.hostAccess ⟨.write v, 4, off⟩).dmem,
                                               response := (s.hostAccess ⟨.write v, 4, off⟩).response } ∧
    s.hostAccess ⟨.read, 4, off⟩ = { s with response := (s.hostAccess ⟨.read, 4, off⟩).response } ∧
    (∀ slot ≤ 127, off.toNat = 0x1000 + 32 * slot →
      (s.memRead (slotAddr slot) 32 / 2 ^ 248) = (s.hostAccess ⟨.read, 4, off⟩).response.data.toNat % 256) ∧
    (off = 0x101C#17 → (∀ a < 28, s.readByte a = 0#8) →
      (s.hostAccess ⟨.write 0x07000000#32, 4, off⟩).memRead (slotAddr 0) 32 = 7)

/-- 20_memory.md R50: a host word at 0x10000 + 4 j is CMDMEM word j, bit for bit. A write changes CMDMEM only and a read
nothing, beside the answer on the bus. -/
def Obligations.HostReachesCommandWords : Prop :=
  ∀ (s : State) (j : Nat) (v : Word) (t u : State), s.run = .idle → j < 4096 →
    t = s.hostAccess ⟨.read, 4, BitVec.ofNat 17 (0x10000 + 4 * j)⟩ →
    u = s.hostAccess ⟨.write v, 4, BitVec.ofNat 17 (0x10000 + 4 * j)⟩ →
    t.response.data = s.readCmd j ∧ t = { s with response := t.response } ∧
    (∀ k, u.readCmd k = if k = j then v else s.readCmd k) ∧ (∀ a, u.readByte a = s.readByte a) ∧
    u = { s with cmdmem := u.cmdmem, response := u.response }

/-- 10_state.md R36-R43, 20_memory.md R47, R48: what each control register and the reserved offsets read as, that such
a read changes nothing, that the read-only registers ignore writes, that ENTRY takes bits 11:0, and that a misaligned
access or one of another width gets a bus error. The bits of CTRL and STATUS are in ControlRegisterWrites and
StatusAndInterrupt. The form of the bus answer, and the 0 that answers a write, are the model's choice (log 10). -/
def Obligations.HostRegisterAccesses : Prop :=
  ∀ (s : State) (v : Word),
    s.hostAccess ⟨.read, 4, 0x000#17⟩ = { s with response := ⟨0x534B3101#32, false⟩ } ∧
    s.hostAccess ⟨.read, 4, 0x004#17⟩ = { s with response := ⟨s.ctrlWord, false⟩ } ∧
    s.hostAccess ⟨.read, 4, 0x008#17⟩ = { s with response := ⟨s.statusWord, false⟩ } ∧
    s.hostAccess ⟨.read, 4, 0x00C#17⟩ = { s with response := ⟨s.ENTRY.setWidth 32, false⟩ } ∧
    s.hostAccess ⟨.read, 4, 0x010#17⟩ = { s with response := ⟨s.pc.setWidth 32, false⟩ } ∧
    s.hostAccess ⟨.read, 4, 0x014#17⟩ = { s with response := ⟨s.CAUSE.code.setWidth 32, false⟩ } ∧
    s.hostAccess ⟨.read, 4, 0x018#17⟩ = { s with response := ⟨s.FAULT_PC.setWidth 32, false⟩ } ∧
    s.hostAccess ⟨.read, 4, 0x01C#17⟩ = { s with response := ⟨s.K.setWidth 32, false⟩ } ∧
    s.hostAccess ⟨.write v, 4, 0x00C#17⟩ = { s with ENTRY := v.extractLsb' 0 12, response := ⟨0#32, false⟩ } ∧
    (∀ off ∈ [0x000#17, 0x010#17, 0x014#17, 0x018#17, 0x01C#17],
      s.hostAccess ⟨.write v, 4, off⟩ = { s with response := ⟨0#32, false⟩ }) ∧
    (∀ (op : BusOp) (off : BitVec 17), off.toNat % 4 = 0 →
      (0x20 ≤ off.toNat ∧ off.toNat < 0x1000 ∨ 0x2000 ≤ off.toNat ∧ off.toNat < 0x10000 ∨ 0x14000 ≤ off.toNat) →
      s.hostAccess ⟨op, 4, off⟩ = { s with response := ⟨0#32, false⟩ }) ∧
    (∀ a : BusAccess, (a.bytes ≠ 4 ∨ a.offset.toNat % 4 ≠ 0) →
      s.hostAccess a = { s with response := ⟨0#32, true⟩ })

/-- 10_state.md R38, 60_exceptions.md R149: the bits of STATUS, that a read of it changes nothing, the
write-one-to-clear bits, and the interrupt line IRQ = IRQ_EN and (DONE or FAULT), which a clearing write or START lowers.
The form of the bus answer, and the 0 that answers a write, are the model's choice (log 10). -/
def Obligations.StatusAndInterrupt : Prop :=
  ∀ (s : State) (v : Word),
    s.hostAccess ⟨.read, 4, 0x008#17⟩ = { s with response := ⟨s.statusWord, false⟩ } ∧
    s.statusWord.getLsbD 0 = decide (s.run = .running) ∧ s.statusWord.getLsbD 1 = s.DONE ∧
    s.statusWord.getLsbD 2 = s.FAULT ∧ s.statusWord.getLsbD 3 = s.C ∧ s.statusWord.getLsbD 4 = s.GCTX ∧
    s.statusWord.getLsbD 5 = s.ACCERR ∧ s.statusWord.getLsbD 6 = s.CMDERR ∧
    s.statusWord.getLsbD 7 = (s.IRQ_EN && (s.DONE || s.FAULT)) ∧ s.statusWord.toNat < 256 ∧
    s.hostAccess ⟨.write v, 4, 0x008#17⟩ =
      { s with DONE := s.DONE && !v.getLsbD 1, FAULT := s.FAULT && !v.getLsbD 2,
               ACCERR := s.ACCERR && !v.getLsbD 5, CMDERR := s.CMDERR && !v.getLsbD 6,
               response := ⟨0#32, false⟩ } ∧
    (v.getLsbD 1 = true → v.getLsbD 2 = true → (s.hostAccess ⟨.write v, 4, 0x008#17⟩).irq = false) ∧
    s.start.irq = (decide (s.run = .running) && s.irq)

/-- 70_reset_and_hazards.md R165, R166: the variable-time opcodes are the six listed, every latency is at least 1, and
two constant-time instructions of one opcode with the same register and slot numbers have the same latency and the same
access pattern, whatever their other immediates and their operand values. Latencies and patterns are free values (log 14). -/
def Obligations.TimingClasses : Prop :=
  ∀ i : Instr,
    (timingClass i = .vt ↔ i.mnemonic ∈ ["FNORMV", "SWNAF", "PVALID", "PMULGQ", "EVERIFY", "ERECOVER"]) ∧
    (∀ o, 1 ≤ latency i o) ∧
    ∀ j : Instr, timingClass i = .ct → j.mnemonic = i.mnemonic → registerNumbers j = registerNumbers i →
      slotNumber j = slotNumber i → ∀ o o', latency j o' = latency i o ∧ accesses j o' = accesses i o
end

