-- ==== Sys2Proof/Laws/Arith.lean ====
section
/-! SUPPORT. What the arithmetic helpers compute: powers, inverses, Montgomery products, residues, byte forms. -/

namespace Sys2Proof.Machine

open Sys2Proof.Config

theorem powAux_eq (m : Nat) : ∀ fuel b e, e ≤ fuel → powAux m fuel b e = b ^ e % m
  | 0, b, e, h => by
    obtain rfl : e = 0 := by omega
    simp [powAux]
  | fuel + 1, b, e, h => by
    rw [powAux]
    split
    · subst e; simp
    · rw [powAux_eq m fuel (b ^ 64 % m) (e / 64) (by omega), ← Nat.pow_mod, Nat.mul_mod, Nat.mod_mod,
        ← Nat.mul_mod, ← pow_mul, ← pow_add, Nat.mod_add_div]

/-- `powMod` is the power, reduced. -/
theorem powMod_eq (m b e : Nat) : powMod m b e = b ^ e % m := by
  rw [powMod, powAux_eq m e _ e le_rfl, ← Nat.pow_mod]

theorem powMod_lt {m : Nat} (hm : 0 < m) (b e : Nat) : powMod m b e < m := by
  rw [powMod_eq]; exact Nat.mod_lt _ hm

/-- A Lucas certificate: a primitive root `a` of `q` and the prime factors of `q - 1`, with multiplicity. -/
theorem prime_of_certificate {q : Nat} (a : Nat) (factors : List Nat) (hq : 1 < q)
    (hprime : ∀ f ∈ factors, f.Prime) (hprod : factors.prod = q - 1) (hone : powMod q a (q - 1) = 1)
    (hne : ∀ f ∈ factors, powMod q a ((q - 1) / f) ≠ 1) : q.Prime := by
  have cast : ∀ e, ((a : ZMod q) ^ e = 1 ↔ powMod q a e = 1) := fun e => by
    have h1 : (1 : ZMod q) = ((1 : Nat) : ZMod q) := by simp
    rw [powMod_eq, h1, ← Nat.cast_pow, ZMod.natCast_eq_natCast_iff', Nat.mod_eq_of_lt hq]
  refine lucas_primality q a ((cast _).2 hone) fun r hr hdvd => ?_
  rw [← hprod] at hdvd
  obtain ⟨f, hf, hrf⟩ := (Nat.Prime.prime hr).dvd_prod_iff.1 hdvd
  obtain rfl : r = f := (Nat.prime_dvd_prime_iff_eq hr (hprime f hf)).1 hrf
  exact fun h => hne r hf ((cast _).1 h)

theorem P_FIELD_pos : 0 < P_FIELD := by decide
theorem N_ORDER_pos : 0 < N_ORDER := by decide

end Sys2Proof.Machine
end

