-- ==== Sys2Proof/Laws/State.lean ====
section
/-! SUPPORT. What each update of the state leaves in each field: one lemma a field and update, true by rfl. -/

namespace Sys2Proof.Machine.State

/-! ### writeF -/

section writeF

variable (s : State) (i : RegIdx) (v m : Nat) (N : Bool)

@[simp] theorem writeF_F : (s.writeF i v m N).F = s.F.set i.val ⟨v, m, N, true⟩ i.isLt := rfl
@[simp] theorem writeF_S : (s.writeF i v m N).S = s.S := rfl
@[simp] theorem writeF_A : (s.writeF i v m N).A = s.A := rfl
@[simp] theorem writeF_J : (s.writeF i v m N).J = s.J := rfl
@[simp] theorem writeF_C : (s.writeF i v m N).C = s.C := rfl
@[simp] theorem writeF_K : (s.writeF i v m N).K = s.K := rfl
@[simp] theorem writeF_pc : (s.writeF i v m N).pc = s.pc := rfl
@[simp] theorem writeF_GCTX : (s.writeF i v m N).GCTX = s.GCTX := rfl
@[simp] theorem writeF_genTable : (s.writeF i v m N).genTable = s.genTable := rfl
@[simp] theorem writeF_run : (s.writeF i v m N).run = s.run := rfl
@[simp] theorem writeF_DONE : (s.writeF i v m N).DONE = s.DONE := rfl
@[simp] theorem writeF_FAULT : (s.writeF i v m N).FAULT = s.FAULT := rfl
@[simp] theorem writeF_ACCERR : (s.writeF i v m N).ACCERR = s.ACCERR := rfl
@[simp] theorem writeF_CMDERR : (s.writeF i v m N).CMDERR = s.CMDERR := rfl
@[simp] theorem writeF_IRQ_EN : (s.writeF i v m N).IRQ_EN = s.IRQ_EN := rfl
@[simp] theorem writeF_ENTRY : (s.writeF i v m N).ENTRY = s.ENTRY := rfl
@[simp] theorem writeF_CAUSE : (s.writeF i v m N).CAUSE = s.CAUSE := rfl
@[simp] theorem writeF_FAULT_PC : (s.writeF i v m N).FAULT_PC = s.FAULT_PC := rfl
@[simp] theorem writeF_cmdmem : (s.writeF i v m N).cmdmem = s.cmdmem := rfl
@[simp] theorem writeF_dmem : (s.writeF i v m N).dmem = s.dmem := rfl
@[simp] theorem writeF_draws : (s.writeF i v m N).draws = s.draws := rfl
@[simp] theorem writeF_powerUps : (s.writeF i v m N).powerUps = s.powerUps := rfl
@[simp] theorem writeF_inputs : (s.writeF i v m N).inputs = s.inputs := rfl
@[simp] theorem writeF_response : (s.writeF i v m N).response = s.response := rfl

end writeF

/-! ### writeS -/

section writeS

variable (s : State) (i : RegIdx) (v : Nat)

@[simp] theorem writeS_F : (s.writeS i v).F = s.F := rfl
@[simp] theorem writeS_S : (s.writeS i v).S = s.S.set i.val ⟨v, true⟩ i.isLt := rfl
@[simp] theorem writeS_A : (s.writeS i v).A = s.A := rfl
@[simp] theorem writeS_J : (s.writeS i v).J = s.J := rfl
@[simp] theorem writeS_C : (s.writeS i v).C = s.C := rfl
@[simp] theorem writeS_K : (s.writeS i v).K = s.K := rfl
@[simp] theorem writeS_pc : (s.writeS i v).pc = s.pc := rfl
@[simp] theorem writeS_GCTX : (s.writeS i v).GCTX = s.GCTX := rfl
@[simp] theorem writeS_genTable : (s.writeS i v).genTable = s.genTable := rfl
@[simp] theorem writeS_run : (s.writeS i v).run = s.run := rfl
@[simp] theorem writeS_DONE : (s.writeS i v).DONE = s.DONE := rfl
@[simp] theorem writeS_FAULT : (s.writeS i v).FAULT = s.FAULT := rfl
@[simp] theorem writeS_ACCERR : (s.writeS i v).ACCERR = s.ACCERR := rfl
@[simp] theorem writeS_CMDERR : (s.writeS i v).CMDERR = s.CMDERR := rfl
@[simp] theorem writeS_IRQ_EN : (s.writeS i v).IRQ_EN = s.IRQ_EN := rfl
@[simp] theorem writeS_ENTRY : (s.writeS i v).ENTRY = s.ENTRY := rfl
@[simp] theorem writeS_CAUSE : (s.writeS i v).CAUSE = s.CAUSE := rfl
@[simp] theorem writeS_FAULT_PC : (s.writeS i v).FAULT_PC = s.FAULT_PC := rfl
@[simp] theorem writeS_cmdmem : (s.writeS i v).cmdmem = s.cmdmem := rfl
@[simp] theorem writeS_dmem : (s.writeS i v).dmem = s.dmem := rfl
@[simp] theorem writeS_draws : (s.writeS i v).draws = s.draws := rfl
@[simp] theorem writeS_powerUps : (s.writeS i v).powerUps = s.powerUps := rfl
@[simp] theorem writeS_inputs : (s.writeS i v).inputs = s.inputs := rfl
@[simp] theorem writeS_response : (s.writeS i v).response = s.response := rfl

end writeS

/-! ### writeA -/

section writeA

variable (s : State) (i : RegIdx) (Q : Point)

@[simp] theorem writeA_F : (s.writeA i Q).F = s.F := rfl
@[simp] theorem writeA_S : (s.writeA i Q).S = s.S := rfl
@[simp] theorem writeA_A : (s.writeA i Q).A = s.A.set i.val ⟨Q, true⟩ i.isLt := rfl
@[simp] theorem writeA_J : (s.writeA i Q).J = s.J := rfl
@[simp] theorem writeA_C : (s.writeA i Q).C = s.C := rfl
@[simp] theorem writeA_K : (s.writeA i Q).K = s.K := rfl
@[simp] theorem writeA_pc : (s.writeA i Q).pc = s.pc := rfl
@[simp] theorem writeA_GCTX : (s.writeA i Q).GCTX = s.GCTX := rfl
@[simp] theorem writeA_genTable : (s.writeA i Q).genTable = s.genTable := rfl
@[simp] theorem writeA_run : (s.writeA i Q).run = s.run := rfl
@[simp] theorem writeA_DONE : (s.writeA i Q).DONE = s.DONE := rfl
@[simp] theorem writeA_FAULT : (s.writeA i Q).FAULT = s.FAULT := rfl
@[simp] theorem writeA_ACCERR : (s.writeA i Q).ACCERR = s.ACCERR := rfl
@[simp] theorem writeA_CMDERR : (s.writeA i Q).CMDERR = s.CMDERR := rfl
@[simp] theorem writeA_IRQ_EN : (s.writeA i Q).IRQ_EN = s.IRQ_EN := rfl
@[simp] theorem writeA_ENTRY : (s.writeA i Q).ENTRY = s.ENTRY := rfl
@[simp] theorem writeA_CAUSE : (s.writeA i Q).CAUSE = s.CAUSE := rfl
@[simp] theorem writeA_FAULT_PC : (s.writeA i Q).FAULT_PC = s.FAULT_PC := rfl
@[simp] theorem writeA_cmdmem : (s.writeA i Q).cmdmem = s.cmdmem := rfl
@[simp] theorem writeA_dmem : (s.writeA i Q).dmem = s.dmem := rfl
@[simp] theorem writeA_draws : (s.writeA i Q).draws = s.draws := rfl
@[simp] theorem writeA_powerUps : (s.writeA i Q).powerUps = s.powerUps := rfl
@[simp] theorem writeA_inputs : (s.writeA i Q).inputs = s.inputs := rfl
@[simp] theorem writeA_response : (s.writeA i Q).response = s.response := rfl

end writeA

/-! ### writeJ -/

section writeJ

variable (s : State) (i : RegIdx) (Q : Point)

@[simp] theorem writeJ_F : (s.writeJ i Q).F = s.F := rfl
@[simp] theorem writeJ_S : (s.writeJ i Q).S = s.S := rfl
@[simp] theorem writeJ_A : (s.writeJ i Q).A = s.A := rfl
@[simp] theorem writeJ_J : (s.writeJ i Q).J = s.J.set i.val ⟨Q, true⟩ i.isLt := rfl
@[simp] theorem writeJ_C : (s.writeJ i Q).C = s.C := rfl
@[simp] theorem writeJ_K : (s.writeJ i Q).K = s.K := rfl
@[simp] theorem writeJ_pc : (s.writeJ i Q).pc = s.pc := rfl
@[simp] theorem writeJ_GCTX : (s.writeJ i Q).GCTX = s.GCTX := rfl
@[simp] theorem writeJ_genTable : (s.writeJ i Q).genTable = s.genTable := rfl
@[simp] theorem writeJ_run : (s.writeJ i Q).run = s.run := rfl
@[simp] theorem writeJ_DONE : (s.writeJ i Q).DONE = s.DONE := rfl
@[simp] theorem writeJ_FAULT : (s.writeJ i Q).FAULT = s.FAULT := rfl
@[simp] theorem writeJ_ACCERR : (s.writeJ i Q).ACCERR = s.ACCERR := rfl
@[simp] theorem writeJ_CMDERR : (s.writeJ i Q).CMDERR = s.CMDERR := rfl
@[simp] theorem writeJ_IRQ_EN : (s.writeJ i Q).IRQ_EN = s.IRQ_EN := rfl
@[simp] theorem writeJ_ENTRY : (s.writeJ i Q).ENTRY = s.ENTRY := rfl
@[simp] theorem writeJ_CAUSE : (s.writeJ i Q).CAUSE = s.CAUSE := rfl
@[simp] theorem writeJ_FAULT_PC : (s.writeJ i Q).FAULT_PC = s.FAULT_PC := rfl
@[simp] theorem writeJ_cmdmem : (s.writeJ i Q).cmdmem = s.cmdmem := rfl
@[simp] theorem writeJ_dmem : (s.writeJ i Q).dmem = s.dmem := rfl
@[simp] theorem writeJ_draws : (s.writeJ i Q).draws = s.draws := rfl
@[simp] theorem writeJ_powerUps : (s.writeJ i Q).powerUps = s.powerUps := rfl
@[simp] theorem writeJ_inputs : (s.writeJ i Q).inputs = s.inputs := rfl
@[simp] theorem writeJ_response : (s.writeJ i Q).response = s.response := rfl

end writeJ

/-! ### drawJ -/

section drawJ

variable (s : State) (i : RegIdx)

@[simp] theorem drawJ_F : (s.drawJ i).F = s.F := rfl
@[simp] theorem drawJ_S : (s.drawJ i).S = s.S := rfl
@[simp] theorem drawJ_A : (s.drawJ i).A = s.A := rfl
@[simp] theorem drawJ_J : (s.drawJ i).J = s.J.set i.val ⟨drawnPoint s.draws, true⟩ i.isLt := rfl
@[simp] theorem drawJ_C : (s.drawJ i).C = s.C := rfl
@[simp] theorem drawJ_K : (s.drawJ i).K = s.K := rfl
@[simp] theorem drawJ_pc : (s.drawJ i).pc = s.pc := rfl
@[simp] theorem drawJ_GCTX : (s.drawJ i).GCTX = s.GCTX := rfl
@[simp] theorem drawJ_genTable : (s.drawJ i).genTable = s.genTable := rfl
@[simp] theorem drawJ_run : (s.drawJ i).run = s.run := rfl
@[simp] theorem drawJ_DONE : (s.drawJ i).DONE = s.DONE := rfl
@[simp] theorem drawJ_FAULT : (s.drawJ i).FAULT = s.FAULT := rfl
@[simp] theorem drawJ_ACCERR : (s.drawJ i).ACCERR = s.ACCERR := rfl
@[simp] theorem drawJ_CMDERR : (s.drawJ i).CMDERR = s.CMDERR := rfl
@[simp] theorem drawJ_IRQ_EN : (s.drawJ i).IRQ_EN = s.IRQ_EN := rfl
@[simp] theorem drawJ_ENTRY : (s.drawJ i).ENTRY = s.ENTRY := rfl
@[simp] theorem drawJ_CAUSE : (s.drawJ i).CAUSE = s.CAUSE := rfl
@[simp] theorem drawJ_FAULT_PC : (s.drawJ i).FAULT_PC = s.FAULT_PC := rfl
@[simp] theorem drawJ_cmdmem : (s.drawJ i).cmdmem = s.cmdmem := rfl
@[simp] theorem drawJ_dmem : (s.drawJ i).dmem = s.dmem := rfl
@[simp] theorem drawJ_draws : (s.drawJ i).draws = s.draws + 1 := rfl
@[simp] theorem drawJ_powerUps : (s.drawJ i).powerUps = s.powerUps := rfl
@[simp] theorem drawJ_inputs : (s.drawJ i).inputs = s.inputs := rfl
@[simp] theorem drawJ_response : (s.drawJ i).response = s.response := rfl

end drawJ

/-! ### writeC -/

section writeC

variable (s : State) (b : Bool)

@[simp] theorem writeC_F : (s.writeC b).F = s.F := rfl
@[simp] theorem writeC_S : (s.writeC b).S = s.S := rfl
@[simp] theorem writeC_A : (s.writeC b).A = s.A := rfl
@[simp] theorem writeC_J : (s.writeC b).J = s.J := rfl
@[simp] theorem writeC_C : (s.writeC b).C = b := rfl
@[simp] theorem writeC_K : (s.writeC b).K = s.K := rfl
@[simp] theorem writeC_pc : (s.writeC b).pc = s.pc := rfl
@[simp] theorem writeC_GCTX : (s.writeC b).GCTX = s.GCTX := rfl
@[simp] theorem writeC_genTable : (s.writeC b).genTable = s.genTable := rfl
@[simp] theorem writeC_run : (s.writeC b).run = s.run := rfl
@[simp] theorem writeC_DONE : (s.writeC b).DONE = s.DONE := rfl
@[simp] theorem writeC_FAULT : (s.writeC b).FAULT = s.FAULT := rfl
@[simp] theorem writeC_ACCERR : (s.writeC b).ACCERR = s.ACCERR := rfl
@[simp] theorem writeC_CMDERR : (s.writeC b).CMDERR = s.CMDERR := rfl
@[simp] theorem writeC_IRQ_EN : (s.writeC b).IRQ_EN = s.IRQ_EN := rfl
@[simp] theorem writeC_ENTRY : (s.writeC b).ENTRY = s.ENTRY := rfl
@[simp] theorem writeC_CAUSE : (s.writeC b).CAUSE = s.CAUSE := rfl
@[simp] theorem writeC_FAULT_PC : (s.writeC b).FAULT_PC = s.FAULT_PC := rfl
@[simp] theorem writeC_cmdmem : (s.writeC b).cmdmem = s.cmdmem := rfl
@[simp] theorem writeC_dmem : (s.writeC b).dmem = s.dmem := rfl
@[simp] theorem writeC_draws : (s.writeC b).draws = s.draws := rfl
@[simp] theorem writeC_powerUps : (s.writeC b).powerUps = s.powerUps := rfl
@[simp] theorem writeC_inputs : (s.writeC b).inputs = s.inputs := rfl
@[simp] theorem writeC_response : (s.writeC b).response = s.response := rfl

end writeC

/-! ### writeK -/

section writeK

variable (s : State) (k : Word12)

@[simp] theorem writeK_F : (s.writeK k).F = s.F := rfl
@[simp] theorem writeK_S : (s.writeK k).S = s.S := rfl
@[simp] theorem writeK_A : (s.writeK k).A = s.A := rfl
@[simp] theorem writeK_J : (s.writeK k).J = s.J := rfl
@[simp] theorem writeK_C : (s.writeK k).C = s.C := rfl
@[simp] theorem writeK_K : (s.writeK k).K = k := rfl
@[simp] theorem writeK_pc : (s.writeK k).pc = s.pc := rfl
@[simp] theorem writeK_GCTX : (s.writeK k).GCTX = s.GCTX := rfl
@[simp] theorem writeK_genTable : (s.writeK k).genTable = s.genTable := rfl
@[simp] theorem writeK_run : (s.writeK k).run = s.run := rfl
@[simp] theorem writeK_DONE : (s.writeK k).DONE = s.DONE := rfl
@[simp] theorem writeK_FAULT : (s.writeK k).FAULT = s.FAULT := rfl
@[simp] theorem writeK_ACCERR : (s.writeK k).ACCERR = s.ACCERR := rfl
@[simp] theorem writeK_CMDERR : (s.writeK k).CMDERR = s.CMDERR := rfl
@[simp] theorem writeK_IRQ_EN : (s.writeK k).IRQ_EN = s.IRQ_EN := rfl
@[simp] theorem writeK_ENTRY : (s.writeK k).ENTRY = s.ENTRY := rfl
@[simp] theorem writeK_CAUSE : (s.writeK k).CAUSE = s.CAUSE := rfl
@[simp] theorem writeK_FAULT_PC : (s.writeK k).FAULT_PC = s.FAULT_PC := rfl
@[simp] theorem writeK_cmdmem : (s.writeK k).cmdmem = s.cmdmem := rfl
@[simp] theorem writeK_dmem : (s.writeK k).dmem = s.dmem := rfl
@[simp] theorem writeK_draws : (s.writeK k).draws = s.draws := rfl
@[simp] theorem writeK_powerUps : (s.writeK k).powerUps = s.powerUps := rfl
@[simp] theorem writeK_inputs : (s.writeK k).inputs = s.inputs := rfl
@[simp] theorem writeK_response : (s.writeK k).response = s.response := rfl

end writeK

/-! ### goto -/

section goto

variable (s : State) (t : Word12)

@[simp] theorem goto_F : (s.goto t).F = s.F := rfl
@[simp] theorem goto_S : (s.goto t).S = s.S := rfl
@[simp] theorem goto_A : (s.goto t).A = s.A := rfl
@[simp] theorem goto_J : (s.goto t).J = s.J := rfl
@[simp] theorem goto_C : (s.goto t).C = s.C := rfl
@[simp] theorem goto_K : (s.goto t).K = s.K := rfl
@[simp] theorem goto_pc : (s.goto t).pc = t := rfl
@[simp] theorem goto_GCTX : (s.goto t).GCTX = s.GCTX := rfl
@[simp] theorem goto_genTable : (s.goto t).genTable = s.genTable := rfl
@[simp] theorem goto_run : (s.goto t).run = s.run := rfl
@[simp] theorem goto_DONE : (s.goto t).DONE = s.DONE := rfl
@[simp] theorem goto_FAULT : (s.goto t).FAULT = s.FAULT := rfl
@[simp] theorem goto_ACCERR : (s.goto t).ACCERR = s.ACCERR := rfl
@[simp] theorem goto_CMDERR : (s.goto t).CMDERR = s.CMDERR := rfl
@[simp] theorem goto_IRQ_EN : (s.goto t).IRQ_EN = s.IRQ_EN := rfl
@[simp] theorem goto_ENTRY : (s.goto t).ENTRY = s.ENTRY := rfl
@[simp] theorem goto_CAUSE : (s.goto t).CAUSE = s.CAUSE := rfl
@[simp] theorem goto_FAULT_PC : (s.goto t).FAULT_PC = s.FAULT_PC := rfl
@[simp] theorem goto_cmdmem : (s.goto t).cmdmem = s.cmdmem := rfl
@[simp] theorem goto_dmem : (s.goto t).dmem = s.dmem := rfl
@[simp] theorem goto_draws : (s.goto t).draws = s.draws := rfl
@[simp] theorem goto_powerUps : (s.goto t).powerUps = s.powerUps := rfl
@[simp] theorem goto_inputs : (s.goto t).inputs = s.inputs := rfl
@[simp] theorem goto_response : (s.goto t).response = s.response := rfl

end goto

/-! ### advance -/

section advance

variable (s : State)

@[simp] theorem advance_F : s.advance.F = s.F := rfl
@[simp] theorem advance_S : s.advance.S = s.S := rfl
@[simp] theorem advance_A : s.advance.A = s.A := rfl
@[simp] theorem advance_J : s.advance.J = s.J := rfl
@[simp] theorem advance_C : s.advance.C = s.C := rfl
@[simp] theorem advance_K : s.advance.K = s.K := rfl
@[simp] theorem advance_pc : s.advance.pc = s.pc + 1 := rfl
@[simp] theorem advance_GCTX : s.advance.GCTX = s.GCTX := rfl
@[simp] theorem advance_genTable : s.advance.genTable = s.genTable := rfl
@[simp] theorem advance_run : s.advance.run = s.run := rfl
@[simp] theorem advance_DONE : s.advance.DONE = s.DONE := rfl
@[simp] theorem advance_FAULT : s.advance.FAULT = s.FAULT := rfl
@[simp] theorem advance_ACCERR : s.advance.ACCERR = s.ACCERR := rfl
@[simp] theorem advance_CMDERR : s.advance.CMDERR = s.CMDERR := rfl
@[simp] theorem advance_IRQ_EN : s.advance.IRQ_EN = s.IRQ_EN := rfl
@[simp] theorem advance_ENTRY : s.advance.ENTRY = s.ENTRY := rfl
@[simp] theorem advance_CAUSE : s.advance.CAUSE = s.CAUSE := rfl
@[simp] theorem advance_FAULT_PC : s.advance.FAULT_PC = s.FAULT_PC := rfl
@[simp] theorem advance_cmdmem : s.advance.cmdmem = s.cmdmem := rfl
@[simp] theorem advance_dmem : s.advance.dmem = s.dmem := rfl
@[simp] theorem advance_draws : s.advance.draws = s.draws := rfl
@[simp] theorem advance_powerUps : s.advance.powerUps = s.powerUps := rfl
@[simp] theorem advance_inputs : s.advance.inputs = s.inputs := rfl
@[simp] theorem advance_response : s.advance.response = s.response := rfl

end advance

/-! ### writeBytes -/

section writeBytes

variable (s : State) (a : Nat) (bs : List Byte)

@[simp] theorem writeBytes_F : (s.writeBytes a bs).F = s.F := rfl
@[simp] theorem writeBytes_S : (s.writeBytes a bs).S = s.S := rfl
@[simp] theorem writeBytes_A : (s.writeBytes a bs).A = s.A := rfl
@[simp] theorem writeBytes_J : (s.writeBytes a bs).J = s.J := rfl
@[simp] theorem writeBytes_C : (s.writeBytes a bs).C = s.C := rfl
@[simp] theorem writeBytes_K : (s.writeBytes a bs).K = s.K := rfl
@[simp] theorem writeBytes_pc : (s.writeBytes a bs).pc = s.pc := rfl
@[simp] theorem writeBytes_GCTX : (s.writeBytes a bs).GCTX = s.GCTX := rfl
@[simp] theorem writeBytes_genTable : (s.writeBytes a bs).genTable = s.genTable := rfl
@[simp] theorem writeBytes_run : (s.writeBytes a bs).run = s.run := rfl
@[simp] theorem writeBytes_DONE : (s.writeBytes a bs).DONE = s.DONE := rfl
@[simp] theorem writeBytes_FAULT : (s.writeBytes a bs).FAULT = s.FAULT := rfl
@[simp] theorem writeBytes_ACCERR : (s.writeBytes a bs).ACCERR = s.ACCERR := rfl
@[simp] theorem writeBytes_CMDERR : (s.writeBytes a bs).CMDERR = s.CMDERR := rfl
@[simp] theorem writeBytes_IRQ_EN : (s.writeBytes a bs).IRQ_EN = s.IRQ_EN := rfl
@[simp] theorem writeBytes_ENTRY : (s.writeBytes a bs).ENTRY = s.ENTRY := rfl
@[simp] theorem writeBytes_CAUSE : (s.writeBytes a bs).CAUSE = s.CAUSE := rfl
@[simp] theorem writeBytes_FAULT_PC : (s.writeBytes a bs).FAULT_PC = s.FAULT_PC := rfl
@[simp] theorem writeBytes_cmdmem : (s.writeBytes a bs).cmdmem = s.cmdmem := rfl
@[simp] theorem writeBytes_dmem : (s.writeBytes a bs).dmem = Memory.write s.dmem a bs := rfl
@[simp] theorem writeBytes_draws : (s.writeBytes a bs).draws = s.draws := rfl
@[simp] theorem writeBytes_powerUps : (s.writeBytes a bs).powerUps = s.powerUps := rfl
@[simp] theorem writeBytes_inputs : (s.writeBytes a bs).inputs = s.inputs := rfl
@[simp] theorem writeBytes_response : (s.writeBytes a bs).response = s.response := rfl

end writeBytes

/-! ### memWrite -/

section memWrite

variable (s : State) (a nb v : Nat)

@[simp] theorem memWrite_F : (s.memWrite a nb v).F = s.F := rfl
@[simp] theorem memWrite_S : (s.memWrite a nb v).S = s.S := rfl
@[simp] theorem memWrite_A : (s.memWrite a nb v).A = s.A := rfl
@[simp] theorem memWrite_J : (s.memWrite a nb v).J = s.J := rfl
@[simp] theorem memWrite_C : (s.memWrite a nb v).C = s.C := rfl
@[simp] theorem memWrite_K : (s.memWrite a nb v).K = s.K := rfl
@[simp] theorem memWrite_pc : (s.memWrite a nb v).pc = s.pc := rfl
@[simp] theorem memWrite_GCTX : (s.memWrite a nb v).GCTX = s.GCTX := rfl
@[simp] theorem memWrite_genTable : (s.memWrite a nb v).genTable = s.genTable := rfl
@[simp] theorem memWrite_run : (s.memWrite a nb v).run = s.run := rfl
@[simp] theorem memWrite_DONE : (s.memWrite a nb v).DONE = s.DONE := rfl
@[simp] theorem memWrite_FAULT : (s.memWrite a nb v).FAULT = s.FAULT := rfl
@[simp] theorem memWrite_ACCERR : (s.memWrite a nb v).ACCERR = s.ACCERR := rfl
@[simp] theorem memWrite_CMDERR : (s.memWrite a nb v).CMDERR = s.CMDERR := rfl
@[simp] theorem memWrite_IRQ_EN : (s.memWrite a nb v).IRQ_EN = s.IRQ_EN := rfl
@[simp] theorem memWrite_ENTRY : (s.memWrite a nb v).ENTRY = s.ENTRY := rfl
@[simp] theorem memWrite_CAUSE : (s.memWrite a nb v).CAUSE = s.CAUSE := rfl
@[simp] theorem memWrite_FAULT_PC : (s.memWrite a nb v).FAULT_PC = s.FAULT_PC := rfl
@[simp] theorem memWrite_cmdmem : (s.memWrite a nb v).cmdmem = s.cmdmem := rfl
@[simp] theorem memWrite_dmem : (s.memWrite a nb v).dmem = Memory.write s.dmem a (bytesBE nb v) := rfl
@[simp] theorem memWrite_draws : (s.memWrite a nb v).draws = s.draws := rfl
@[simp] theorem memWrite_powerUps : (s.memWrite a nb v).powerUps = s.powerUps := rfl
@[simp] theorem memWrite_inputs : (s.memWrite a nb v).inputs = s.inputs := rfl
@[simp] theorem memWrite_response : (s.memWrite a nb v).response = s.response := rfl

end memWrite

/-! ### writeCmd -/

section writeCmd

variable (s : State) (j : Nat) (w : Word)

@[simp] theorem writeCmd_F : (s.writeCmd j w).F = s.F := rfl
@[simp] theorem writeCmd_S : (s.writeCmd j w).S = s.S := rfl
@[simp] theorem writeCmd_A : (s.writeCmd j w).A = s.A := rfl
@[simp] theorem writeCmd_J : (s.writeCmd j w).J = s.J := rfl
@[simp] theorem writeCmd_C : (s.writeCmd j w).C = s.C := rfl
@[simp] theorem writeCmd_K : (s.writeCmd j w).K = s.K := rfl
@[simp] theorem writeCmd_pc : (s.writeCmd j w).pc = s.pc := rfl
@[simp] theorem writeCmd_GCTX : (s.writeCmd j w).GCTX = s.GCTX := rfl
@[simp] theorem writeCmd_genTable : (s.writeCmd j w).genTable = s.genTable := rfl
@[simp] theorem writeCmd_run : (s.writeCmd j w).run = s.run := rfl
@[simp] theorem writeCmd_DONE : (s.writeCmd j w).DONE = s.DONE := rfl
@[simp] theorem writeCmd_FAULT : (s.writeCmd j w).FAULT = s.FAULT := rfl
@[simp] theorem writeCmd_ACCERR : (s.writeCmd j w).ACCERR = s.ACCERR := rfl
@[simp] theorem writeCmd_CMDERR : (s.writeCmd j w).CMDERR = s.CMDERR := rfl
@[simp] theorem writeCmd_IRQ_EN : (s.writeCmd j w).IRQ_EN = s.IRQ_EN := rfl
@[simp] theorem writeCmd_ENTRY : (s.writeCmd j w).ENTRY = s.ENTRY := rfl
@[simp] theorem writeCmd_CAUSE : (s.writeCmd j w).CAUSE = s.CAUSE := rfl
@[simp] theorem writeCmd_FAULT_PC : (s.writeCmd j w).FAULT_PC = s.FAULT_PC := rfl
@[simp] theorem writeCmd_cmdmem : (s.writeCmd j w).cmdmem = Memory.write s.cmdmem j [w] := rfl
@[simp] theorem writeCmd_dmem : (s.writeCmd j w).dmem = s.dmem := rfl
@[simp] theorem writeCmd_draws : (s.writeCmd j w).draws = s.draws := rfl
@[simp] theorem writeCmd_powerUps : (s.writeCmd j w).powerUps = s.powerUps := rfl
@[simp] theorem writeCmd_inputs : (s.writeCmd j w).inputs = s.inputs := rfl
@[simp] theorem writeCmd_response : (s.writeCmd j w).response = s.response := rfl

end writeCmd

/-! ### buildContext -/

section buildContext

variable (s : State)

@[simp] theorem buildContext_F : s.buildContext.F = s.F := rfl
@[simp] theorem buildContext_S : s.buildContext.S = s.S := rfl
@[simp] theorem buildContext_A : s.buildContext.A = s.A := rfl
@[simp] theorem buildContext_J : s.buildContext.J = s.J := rfl
@[simp] theorem buildContext_C : s.buildContext.C = s.C := rfl
@[simp] theorem buildContext_K : s.buildContext.K = s.K := rfl
@[simp] theorem buildContext_pc : s.buildContext.pc = s.pc := rfl
@[simp] theorem buildContext_GCTX : s.buildContext.GCTX = true := rfl
@[simp] theorem buildContext_genTable : s.buildContext.genTable = if s.GCTX then s.genTable else oddMultiples Config.W_GEN := rfl
@[simp] theorem buildContext_run : s.buildContext.run = s.run := rfl
@[simp] theorem buildContext_DONE : s.buildContext.DONE = s.DONE := rfl
@[simp] theorem buildContext_FAULT : s.buildContext.FAULT = s.FAULT := rfl
@[simp] theorem buildContext_ACCERR : s.buildContext.ACCERR = s.ACCERR := rfl
@[simp] theorem buildContext_CMDERR : s.buildContext.CMDERR = s.CMDERR := rfl
@[simp] theorem buildContext_IRQ_EN : s.buildContext.IRQ_EN = s.IRQ_EN := rfl
@[simp] theorem buildContext_ENTRY : s.buildContext.ENTRY = s.ENTRY := rfl
@[simp] theorem buildContext_CAUSE : s.buildContext.CAUSE = s.CAUSE := rfl
@[simp] theorem buildContext_FAULT_PC : s.buildContext.FAULT_PC = s.FAULT_PC := rfl
@[simp] theorem buildContext_cmdmem : s.buildContext.cmdmem = s.cmdmem := rfl
@[simp] theorem buildContext_dmem : s.buildContext.dmem = s.dmem := rfl
@[simp] theorem buildContext_draws : s.buildContext.draws = s.draws := rfl
@[simp] theorem buildContext_powerUps : s.buildContext.powerUps = s.powerUps := rfl
@[simp] theorem buildContext_inputs : s.buildContext.inputs = s.inputs := rfl
@[simp] theorem buildContext_response : s.buildContext.response = s.response := rfl

end buildContext

/-! ### endRun -/

section endRun

variable (s : State)

@[simp] theorem endRun_F : s.endRun.F = s.F := rfl
@[simp] theorem endRun_S : s.endRun.S = s.S := rfl
@[simp] theorem endRun_A : s.endRun.A = s.A := rfl
@[simp] theorem endRun_J : s.endRun.J = s.J := rfl
@[simp] theorem endRun_C : s.endRun.C = s.C := rfl
@[simp] theorem endRun_K : s.endRun.K = s.K := rfl
@[simp] theorem endRun_pc : s.endRun.pc = s.pc := rfl
@[simp] theorem endRun_GCTX : s.endRun.GCTX = s.GCTX := rfl
@[simp] theorem endRun_genTable : s.endRun.genTable = s.genTable := rfl
@[simp] theorem endRun_run : s.endRun.run = .idle := rfl
@[simp] theorem endRun_DONE : s.endRun.DONE = true := rfl
@[simp] theorem endRun_FAULT : s.endRun.FAULT = s.FAULT := rfl
@[simp] theorem endRun_ACCERR : s.endRun.ACCERR = s.ACCERR := rfl
@[simp] theorem endRun_CMDERR : s.endRun.CMDERR = s.CMDERR := rfl
@[simp] theorem endRun_IRQ_EN : s.endRun.IRQ_EN = s.IRQ_EN := rfl
@[simp] theorem endRun_ENTRY : s.endRun.ENTRY = s.ENTRY := rfl
@[simp] theorem endRun_CAUSE : s.endRun.CAUSE = s.CAUSE := rfl
@[simp] theorem endRun_FAULT_PC : s.endRun.FAULT_PC = s.FAULT_PC := rfl
@[simp] theorem endRun_cmdmem : s.endRun.cmdmem = s.cmdmem := rfl
@[simp] theorem endRun_dmem : s.endRun.dmem = s.dmem := rfl
@[simp] theorem endRun_draws : s.endRun.draws = s.draws := rfl
@[simp] theorem endRun_powerUps : s.endRun.powerUps = s.powerUps := rfl
@[simp] theorem endRun_inputs : s.endRun.inputs = s.inputs := rfl
@[simp] theorem endRun_response : s.endRun.response = s.response := rfl

end endRun

/-! ### takeFault -/

section takeFault

variable (s : State) (c : Cause)

@[simp] theorem takeFault_F : (s.takeFault c).F = s.F := rfl
@[simp] theorem takeFault_S : (s.takeFault c).S = s.S := rfl
@[simp] theorem takeFault_A : (s.takeFault c).A = s.A := rfl
@[simp] theorem takeFault_J : (s.takeFault c).J = s.J := rfl
@[simp] theorem takeFault_C : (s.takeFault c).C = s.C := rfl
@[simp] theorem takeFault_K : (s.takeFault c).K = s.K := rfl
@[simp] theorem takeFault_pc : (s.takeFault c).pc = s.pc := rfl
@[simp] theorem takeFault_GCTX : (s.takeFault c).GCTX = s.GCTX := rfl
@[simp] theorem takeFault_genTable : (s.takeFault c).genTable = s.genTable := rfl
@[simp] theorem takeFault_run : (s.takeFault c).run = .idle := rfl
@[simp] theorem takeFault_DONE : (s.takeFault c).DONE = s.DONE := rfl
@[simp] theorem takeFault_FAULT : (s.takeFault c).FAULT = true := rfl
@[simp] theorem takeFault_ACCERR : (s.takeFault c).ACCERR = s.ACCERR := rfl
@[simp] theorem takeFault_CMDERR : (s.takeFault c).CMDERR = s.CMDERR := rfl
@[simp] theorem takeFault_IRQ_EN : (s.takeFault c).IRQ_EN = s.IRQ_EN := rfl
@[simp] theorem takeFault_ENTRY : (s.takeFault c).ENTRY = s.ENTRY := rfl
@[simp] theorem takeFault_CAUSE : (s.takeFault c).CAUSE = c := rfl
@[simp] theorem takeFault_FAULT_PC : (s.takeFault c).FAULT_PC = s.pc := rfl
@[simp] theorem takeFault_cmdmem : (s.takeFault c).cmdmem = s.cmdmem := rfl
@[simp] theorem takeFault_dmem : (s.takeFault c).dmem = s.dmem := rfl
@[simp] theorem takeFault_draws : (s.takeFault c).draws = s.draws := rfl
@[simp] theorem takeFault_powerUps : (s.takeFault c).powerUps = s.powerUps := rfl
@[simp] theorem takeFault_inputs : (s.takeFault c).inputs = s.inputs := rfl
@[simp] theorem takeFault_response : (s.takeFault c).response = s.response := rfl

end takeFault

/-! ### respond -/

section respond

variable (s : State) (d : Word) (e : Bool)

@[simp] theorem respond_F : (s.respond d e).F = s.F := rfl
@[simp] theorem respond_S : (s.respond d e).S = s.S := rfl
@[simp] theorem respond_A : (s.respond d e).A = s.A := rfl
@[simp] theorem respond_J : (s.respond d e).J = s.J := rfl
@[simp] theorem respond_C : (s.respond d e).C = s.C := rfl
@[simp] theorem respond_K : (s.respond d e).K = s.K := rfl
@[simp] theorem respond_pc : (s.respond d e).pc = s.pc := rfl
@[simp] theorem respond_GCTX : (s.respond d e).GCTX = s.GCTX := rfl
@[simp] theorem respond_genTable : (s.respond d e).genTable = s.genTable := rfl
@[simp] theorem respond_run : (s.respond d e).run = s.run := rfl
@[simp] theorem respond_DONE : (s.respond d e).DONE = s.DONE := rfl
@[simp] theorem respond_FAULT : (s.respond d e).FAULT = s.FAULT := rfl
@[simp] theorem respond_ACCERR : (s.respond d e).ACCERR = s.ACCERR := rfl
@[simp] theorem respond_CMDERR : (s.respond d e).CMDERR = s.CMDERR := rfl
@[simp] theorem respond_IRQ_EN : (s.respond d e).IRQ_EN = s.IRQ_EN := rfl
@[simp] theorem respond_ENTRY : (s.respond d e).ENTRY = s.ENTRY := rfl
@[simp] theorem respond_CAUSE : (s.respond d e).CAUSE = s.CAUSE := rfl
@[simp] theorem respond_FAULT_PC : (s.respond d e).FAULT_PC = s.FAULT_PC := rfl
@[simp] theorem respond_cmdmem : (s.respond d e).cmdmem = s.cmdmem := rfl
@[simp] theorem respond_dmem : (s.respond d e).dmem = s.dmem := rfl
@[simp] theorem respond_draws : (s.respond d e).draws = s.draws := rfl
@[simp] theorem respond_powerUps : (s.respond d e).powerUps = s.powerUps := rfl
@[simp] theorem respond_inputs : (s.respond d e).inputs = s.inputs := rfl
@[simp] theorem respond_response : (s.respond d e).response = ⟨d, e⟩ := rfl

end respond

/-! ### withInputs -/

section withInputs

variable (s : State) (ms : List Move)

@[simp] theorem withInputs_F : (s.withInputs ms).F = s.F := rfl
@[simp] theorem withInputs_S : (s.withInputs ms).S = s.S := rfl
@[simp] theorem withInputs_A : (s.withInputs ms).A = s.A := rfl
@[simp] theorem withInputs_J : (s.withInputs ms).J = s.J := rfl
@[simp] theorem withInputs_C : (s.withInputs ms).C = s.C := rfl
@[simp] theorem withInputs_K : (s.withInputs ms).K = s.K := rfl
@[simp] theorem withInputs_pc : (s.withInputs ms).pc = s.pc := rfl
@[simp] theorem withInputs_GCTX : (s.withInputs ms).GCTX = s.GCTX := rfl
@[simp] theorem withInputs_genTable : (s.withInputs ms).genTable = s.genTable := rfl
@[simp] theorem withInputs_run : (s.withInputs ms).run = s.run := rfl
@[simp] theorem withInputs_DONE : (s.withInputs ms).DONE = s.DONE := rfl
@[simp] theorem withInputs_FAULT : (s.withInputs ms).FAULT = s.FAULT := rfl
@[simp] theorem withInputs_ACCERR : (s.withInputs ms).ACCERR = s.ACCERR := rfl
@[simp] theorem withInputs_CMDERR : (s.withInputs ms).CMDERR = s.CMDERR := rfl
@[simp] theorem withInputs_IRQ_EN : (s.withInputs ms).IRQ_EN = s.IRQ_EN := rfl
@[simp] theorem withInputs_ENTRY : (s.withInputs ms).ENTRY = s.ENTRY := rfl
@[simp] theorem withInputs_CAUSE : (s.withInputs ms).CAUSE = s.CAUSE := rfl
@[simp] theorem withInputs_FAULT_PC : (s.withInputs ms).FAULT_PC = s.FAULT_PC := rfl
@[simp] theorem withInputs_cmdmem : (s.withInputs ms).cmdmem = s.cmdmem := rfl
@[simp] theorem withInputs_dmem : (s.withInputs ms).dmem = s.dmem := rfl
@[simp] theorem withInputs_draws : (s.withInputs ms).draws = s.draws := rfl
@[simp] theorem withInputs_powerUps : (s.withInputs ms).powerUps = s.powerUps := rfl
@[simp] theorem withInputs_inputs : (s.withInputs ms).inputs = ms := rfl
@[simp] theorem withInputs_response : (s.withInputs ms).response = s.response := rfl

end withInputs

/-! ### softReset -/

section softReset

variable (s : State)

@[simp] theorem softReset_F : s.softReset.F = State.reset.F := rfl
@[simp] theorem softReset_S : s.softReset.S = State.reset.S := rfl
@[simp] theorem softReset_A : s.softReset.A = State.reset.A := rfl
@[simp] theorem softReset_J : s.softReset.J = State.reset.J := rfl
@[simp] theorem softReset_C : s.softReset.C = State.reset.C := rfl
@[simp] theorem softReset_K : s.softReset.K = State.reset.K := rfl
@[simp] theorem softReset_pc : s.softReset.pc = State.reset.pc := rfl
@[simp] theorem softReset_GCTX : s.softReset.GCTX = State.reset.GCTX := rfl
@[simp] theorem softReset_genTable : s.softReset.genTable = State.reset.genTable := rfl
@[simp] theorem softReset_run : s.softReset.run = State.reset.run := rfl
@[simp] theorem softReset_DONE : s.softReset.DONE = State.reset.DONE := rfl
@[simp] theorem softReset_FAULT : s.softReset.FAULT = State.reset.FAULT := rfl
@[simp] theorem softReset_ACCERR : s.softReset.ACCERR = State.reset.ACCERR := rfl
@[simp] theorem softReset_CMDERR : s.softReset.CMDERR = State.reset.CMDERR := rfl
@[simp] theorem softReset_IRQ_EN : s.softReset.IRQ_EN = State.reset.IRQ_EN := rfl
@[simp] theorem softReset_ENTRY : s.softReset.ENTRY = s.ENTRY := rfl
@[simp] theorem softReset_CAUSE : s.softReset.CAUSE = State.reset.CAUSE := rfl
@[simp] theorem softReset_FAULT_PC : s.softReset.FAULT_PC = State.reset.FAULT_PC := rfl
@[simp] theorem softReset_cmdmem : s.softReset.cmdmem = s.cmdmem := rfl
@[simp] theorem softReset_dmem : s.softReset.dmem = s.dmem := rfl
@[simp] theorem softReset_draws : s.softReset.draws = s.draws := rfl
@[simp] theorem softReset_powerUps : s.softReset.powerUps = s.powerUps := rfl
@[simp] theorem softReset_inputs : s.softReset.inputs = s.inputs := rfl
@[simp] theorem softReset_response : s.softReset.response = s.response := rfl

end softReset

/-! ### hardReset -/

section hardReset

variable (s : State)

@[simp] theorem hardReset_F : s.hardReset.F = State.reset.F := rfl
@[simp] theorem hardReset_S : s.hardReset.S = State.reset.S := rfl
@[simp] theorem hardReset_A : s.hardReset.A = State.reset.A := rfl
@[simp] theorem hardReset_J : s.hardReset.J = State.reset.J := rfl
@[simp] theorem hardReset_C : s.hardReset.C = State.reset.C := rfl
@[simp] theorem hardReset_K : s.hardReset.K = State.reset.K := rfl
@[simp] theorem hardReset_pc : s.hardReset.pc = State.reset.pc := rfl
@[simp] theorem hardReset_GCTX : s.hardReset.GCTX = State.reset.GCTX := rfl
@[simp] theorem hardReset_genTable : s.hardReset.genTable = State.reset.genTable := rfl
@[simp] theorem hardReset_run : s.hardReset.run = State.reset.run := rfl
@[simp] theorem hardReset_DONE : s.hardReset.DONE = State.reset.DONE := rfl
@[simp] theorem hardReset_FAULT : s.hardReset.FAULT = State.reset.FAULT := rfl
@[simp] theorem hardReset_ACCERR : s.hardReset.ACCERR = State.reset.ACCERR := rfl
@[simp] theorem hardReset_CMDERR : s.hardReset.CMDERR = State.reset.CMDERR := rfl
@[simp] theorem hardReset_IRQ_EN : s.hardReset.IRQ_EN = State.reset.IRQ_EN := rfl
@[simp] theorem hardReset_ENTRY : s.hardReset.ENTRY = State.reset.ENTRY := rfl
@[simp] theorem hardReset_CAUSE : s.hardReset.CAUSE = State.reset.CAUSE := rfl
@[simp] theorem hardReset_FAULT_PC : s.hardReset.FAULT_PC = State.reset.FAULT_PC := rfl
@[simp] theorem hardReset_cmdmem : s.hardReset.cmdmem = State.reset.cmdmem := rfl
@[simp] theorem hardReset_dmem : s.hardReset.dmem = State.reset.dmem := rfl
@[simp] theorem hardReset_draws : s.hardReset.draws = s.draws := rfl
@[simp] theorem hardReset_powerUps : s.hardReset.powerUps = s.powerUps + 1 := rfl
@[simp] theorem hardReset_inputs : s.hardReset.inputs = s.inputs := rfl
@[simp] theorem hardReset_response : s.hardReset.response = s.response := rfl

end hardReset

end Sys2Proof.Machine.State
end

