-- ==== Sys2Proof/Laws/Memory.lean ====
section
/-! SUPPORT. The sparse memories: reading after writing, and the canonical form, which every write keeps. -/

namespace Sys2Proof.Machine

open Sys2Proof.Config

variable {α : Type}

/-! ### Reading -/

theorem Memory.get_append (m m' : Memory α) (a : Nat) :
    Memory.get (m ++ m') a = (Memory.get m a).or (Memory.get m' a) := by
  induction m with
  | nil => rfl
  | cons c m ih => rw [List.cons_append, Memory.get, Memory.get]; split <;> simp [ih]

theorem Memory.get_filter (q : Nat → Bool) (m : Memory α) (a : Nat) :
    Memory.get (m.filter fun c => q c.1) a = if q a then Memory.get m a else none := by
  induction m with
  | nil => cases q a <;> rfl
  | cons c m ih =>
    rw [List.filter_cons]
    by_cases hc : c.1 = a
    · cases hq : q a
      · simp [hc, hq, ih]
      · simp [hc, hq, Memory.get]
    · cases hq : q c.1
      · simp [ih, Memory.get, hc]
      · simp [Memory.get, hc, ih]

theorem Memory.get_block (lo : Nat) (vs : List α) (a : Nat) :
    Memory.get (Memory.block lo vs) a = if lo ≤ a then vs[a - lo]? else none := by
  induction vs generalizing lo with
  | nil => simp [Memory.block, Memory.get]
  | cons v vs ih =>
    rw [Memory.block, Memory.get, ih]
    by_cases h : lo = a
    · subst h; simp
    · by_cases hlt : lo ≤ a
      · have h1 : lo + 1 ≤ a := by omega
        have h2 : a - lo = (a - (lo + 1)) + 1 := by omega
        simp [h, hlt, h1, h2]
      · have h1 : ¬ lo + 1 ≤ a := by omega
        simp [h, hlt, h1]

/-- What every cell holds after a write: the stored value inside the stored range, what it held before outside. -/
theorem Memory.get_write (m : Memory α) (lo : Nat) (vs : List α) (a : Nat) :
    Memory.get (Memory.write m lo vs) a
      = if lo ≤ a ∧ a < lo + vs.length then vs[a - lo]? else Memory.get m a := by
  rw [Memory.write, Memory.get_append, Memory.get_append,
    Memory.get_filter (fun k => decide (k < lo)), Memory.get_block,
    Memory.get_filter (fun k => decide (lo + vs.length ≤ k))]
  by_cases h1 : a < lo
  · have h2 : ¬ lo ≤ a := by omega
    have h3 : ¬ lo + vs.length ≤ a := by omega
    simp [h1, h2, h3]
  · have h2 : lo ≤ a := by omega
    by_cases h3 : a < lo + vs.length
    · have h4 : ¬ lo + vs.length ≤ a := by omega
      simp [h1, h2, h3, h4]
    · have h4 : lo + vs.length ≤ a := by omega
      have h5 : vs[a - lo]? = none := List.getElem?_eq_none (by omega)
      simp [h1, h2, h3, h4, h5]

/-! ### The canonical form -/

/-- The canonical form, said by members: keys strictly rising and below the size. -/
theorem Memory.wf_iff (size : Nat) (m : Memory α) :
    Memory.wf size m = true ↔ m.Pairwise (fun c d => c.1 < d.1) ∧ ∀ c ∈ m, c.1 < size := by
  induction m with
  | nil => simp [Memory.wf]
  | cons c m ih =>
    cases m with
    | nil => simp [Memory.wf]
    | cons d m =>
      rw [Memory.wf, Bool.and_eq_true, ih, decide_eq_true_iff]
      constructor
      · rintro ⟨hcd, hp, hs⟩
        refine ⟨List.pairwise_cons.2 ⟨fun e he => ?_, hp⟩, fun e he => ?_⟩
        · rcases List.mem_cons.1 he with rfl | he
          · exact hcd
          · exact hcd.trans (List.rel_of_pairwise_cons hp he)
        · rcases List.mem_cons.1 he with rfl | he
          · exact hcd.trans (hs d (by simp))
          · exact hs e he
      · rintro ⟨hp, hs⟩
        exact ⟨List.rel_of_pairwise_cons hp (by simp), (List.pairwise_cons.1 hp).2, fun e he => hs e (by simp [he])⟩

theorem Memory.block_bounds {lo : Nat} {vs : List α} {c : Nat × α} (h : c ∈ Memory.block lo vs) :
    lo ≤ c.1 ∧ c.1 < lo + vs.length := by
  induction vs generalizing lo with
  | nil => simp [Memory.block] at h
  | cons v vs ih =>
    rcases List.mem_cons.1 h with rfl | h
    · simp
    · have := ih h; simp only [List.length_cons]; omega

theorem Memory.block_pairwise (lo : Nat) (vs : List α) :
    (Memory.block lo vs).Pairwise (fun c d => c.1 < d.1) := by
  induction vs generalizing lo with
  | nil => exact List.Pairwise.nil
  | cons v vs ih =>
    exact List.pairwise_cons.2 ⟨fun d hd => by have := Memory.block_bounds hd; omega, ih (lo + 1)⟩

/-- A write inside the memory keeps the canonical form. -/
theorem Memory.write_wf {size : Nat} {m : Memory α} (hm : Memory.wf size m = true) (lo : Nat) (vs : List α)
    (hfit : lo + vs.length ≤ size) : Memory.wf size (Memory.write m lo vs) = true := by
  rw [Memory.wf_iff] at hm ⊢
  obtain ⟨hp, hs⟩ := hm
  constructor
  · rw [Memory.write, List.pairwise_append, List.pairwise_append]
    refine ⟨⟨hp.filter _, Memory.block_pairwise lo vs, fun c hc d hd => ?_⟩, hp.filter _, fun c hc d hd => ?_⟩
    · have := Memory.block_bounds hd
      simp only [List.mem_filter, decide_eq_true_iff] at hc; omega
    · simp only [List.mem_filter, decide_eq_true_iff] at hd
      rcases List.mem_append.1 hc with hc | hc
      · simp only [List.mem_filter, decide_eq_true_iff] at hc; omega
      · have := Memory.block_bounds hc; omega
  · intro c hc
    rw [Memory.write, List.append_assoc, List.mem_append, List.mem_append] at hc
    rcases hc with hc | hc | hc
    · exact hs c (List.mem_filter.1 hc).1
    · have := Memory.block_bounds hc; omega
    · exact hs c (List.mem_filter.1 hc).1

/-! ### The two memories of the state -/

namespace State

variable (s : State)

/-- Reading a DMEM byte after a store: the stored byte inside the range, what it read before outside. -/
theorem readByte_writeBytes (lo : Nat) (bs : List Byte) (a : Nat) :
    (s.writeBytes lo bs).readByte a
      = if h : lo ≤ a ∧ a < lo + bs.length then bs[a - lo]'(by omega) else s.readByte a := by
  rw [readByte, writeBytes_dmem, Memory.get_write]
  by_cases h : lo ≤ a ∧ a < lo + bs.length
  · rw [dif_pos h, if_pos h, List.getElem?_eq_getElem (by omega)]
  · rw [dif_neg h, if_neg h]; rfl

theorem readByte_writeBytes_outside (lo : Nat) (bs : List Byte) (a : Nat) (h : a < lo ∨ lo + bs.length ≤ a) :
    (s.writeBytes lo bs).readByte a = s.readByte a := by
  rw [readByte_writeBytes, dif_neg (by omega)]

theorem readByte_writeBytes_inside (lo : Nat) (bs : List Byte) (i : Nat) (h : i < bs.length) :
    (s.writeBytes lo bs).readByte (lo + i) = bs[i] := by
  rw [readByte_writeBytes, dif_pos (by omega)]; simp

/-- Reading a CMDMEM word after a host store. -/
theorem readCmd_writeCmd (j : Nat) (w : Word) (k : Nat) :
    (s.writeCmd j w).readCmd k = if k = j then w else s.readCmd k := by
  rw [readCmd, writeCmd_cmdmem, Memory.get_write]
  by_cases h : k = j
  · subst h; simp
  · have hout : ¬ (j ≤ k ∧ k < j + [w].length) := by rw [List.length_singleton]; omega
    rw [if_neg hout, if_neg h]; rfl

@[simp] theorem readCmd_writeBytes (lo : Nat) (bs : List Byte) (k : Nat) :
    (s.writeBytes lo bs).readCmd k = s.readCmd k := rfl

@[simp] theorem readByte_writeCmd (j : Nat) (w : Word) (a : Nat) : (s.writeCmd j w).readByte a = s.readByte a := rfl

/-- DMEM bytes depend on the memory and the power-up number only. -/
theorem readByte_congr {s t : State} (h : t.dmem = s.dmem) (hp : t.powerUps = s.powerUps) (a : Nat) :
    t.readByte a = s.readByte a := by simp only [readByte, h, hp]

theorem readCmd_congr {s t : State} (h : t.cmdmem = s.cmdmem) (hp : t.powerUps = s.powerUps) (k : Nat) :
    t.readCmd k = s.readCmd k := by simp only [readCmd, h, hp]

end State

end Sys2Proof.Machine
end

