-- ==== Sys2Proof/Laws/Bytes.lean ====
section
/-! SUPPORT. Big-endian operands: the value of bytes, the bytes of a value, and reading an operand after storing one. -/

namespace Sys2Proof.Machine

theorem bytesBE_length (nb v : Nat) : (bytesBE nb v).length = nb := by simp [bytesBE]

theorem bytesBE_succ (nb v : Nat) : bytesBE (nb + 1) v = BitVec.ofNat 8 (v / 256 ^ nb) :: bytesBE nb v := by
  rw [bytesBE, List.range_succ_eq_map, List.map_cons, bytesBE, List.map_map]
  congr 1
  apply List.map_congr_left
  intro i _
  simp only [Function.comp]
  congr 3
  omega

theorem valueBE_append (bs : List Byte) (b : Byte) : valueBE (bs ++ [b]) = valueBE bs * 256 + b.toNat := by
  simp [valueBE]

theorem valueBE_cons (b : Byte) (bs : List Byte) : valueBE (b :: bs) = b.toNat * 256 ^ bs.length + valueBE bs := by
  induction bs using List.reverseRecOn with
  | nil => simp [valueBE]
  | append_singleton bs c ih =>
    rw [← List.cons_append, valueBE_append, ih, valueBE_append, List.length_append, List.length_singleton, pow_succ]
    ring

theorem valueBE_lt (bs : List Byte) : valueBE bs < 256 ^ bs.length := by
  induction bs using List.reverseRecOn with
  | nil => simp [valueBE]
  | append_singleton bs b ih =>
    rw [valueBE_append, List.length_append, List.length_singleton, pow_succ]
    have := b.isLt
    omega

/-- The bytes of a value have that value, mod 2^(8 nb). -/
theorem valueBE_bytesBE (nb v : Nat) : valueBE (bytesBE nb v) = v % 256 ^ nb := by
  induction nb with
  | zero => rw [pow_zero, Nat.mod_one]; rfl
  | succ nb ih =>
    rw [bytesBE_succ, valueBE_cons, ih, bytesBE_length, BitVec.toNat_ofNat, show (2 : Nat) ^ 8 = 256 from rfl,
      pow_succ 256 nb, Nat.mod_mul, mul_comm (256 ^ nb), Nat.add_comm]

theorem memRead_lt (s : State) (addr nb : Nat) : s.memRead addr nb < 256 ^ nb := by
  have h := valueBE_lt ((List.range nb).map fun i => s.readByte (addr + i))
  rwa [List.length_map, List.length_range] at h

/-- Reading the bytes just stored. -/
theorem memRead_writeBytes (s : State) (addr : Nat) (bs : List Byte) :
    (s.writeBytes addr bs).memRead addr bs.length = valueBE bs := by
  rw [State.memRead]
  congr 1
  refine List.ext_getElem (by simp) fun i h1 _ => ?_
  simp only [List.length_map, List.length_range] at h1
  simp [State.readByte_writeBytes_inside _ _ _ _ h1]

/-- An operand depends on its bytes only. -/
theorem memRead_congr {s t : State} {addr nb : Nat} (h : ∀ i < nb, t.readByte (addr + i) = s.readByte (addr + i)) :
    t.memRead addr nb = s.memRead addr nb := by
  rw [State.memRead, State.memRead]
  congr 1
  exact List.map_congr_left fun i hi => h i (List.mem_range.1 hi)

end Sys2Proof.Machine
end

