-- ==== Sys2Proof/Laws/Decode.lean ====
section
/-! SUPPORT. The fields of a packed word, the bits of a field, and what the decoder can answer. -/

namespace Sys2Proof

/-! ### Bounds of the fields -/

theorem bits_lt (w : Word) (lo n : Nat) : bits w lo n < 2 ^ n := Nat.mod_lt _ (Nat.two_pow_pos n)

theorem opField_lt (w : Word) : opField w < 256 := bits_lt w 24 8
theorem r1Field_lt (w : Word) : r1Field w < 16 := bits_lt w 20 4
theorem r2Field_lt (w : Word) : r2Field w < 16 := bits_lt w 16 4
theorem r3Field_lt (w : Word) : r3Field w < 16 := bits_lt w 12 4
theorem imm12_lt (w : Word) : imm12 w < 4096 := bits_lt w 0 12

@[simp] theorem r1_val (w : Word) : (r1 w).val = r1Field w := Nat.mod_eq_of_lt (r1Field_lt w)
@[simp] theorem r2_val (w : Word) : (r2 w).val = r2Field w := Nat.mod_eq_of_lt (r2Field_lt w)
@[simp] theorem r3_val (w : Word) : (r3 w).val = r3Field w := Nat.mod_eq_of_lt (r3Field_lt w)
@[simp] theorem r4_val (w : Word) : (r4 w).val = bits w 0 4 := Nat.mod_eq_of_lt (bits_lt w 0 4)

theorem target_toNat (w : Word) : (target w).toNat = imm12 w := Nat.mod_eq_of_lt (imm12_lt w)

/-- A word is its five fields. -/
theorem word_eq_fields (w : Word) :
    w.toNat = opField w * 2 ^ 24 + r1Field w * 2 ^ 20 + r2Field w * 2 ^ 16 + r3Field w * 2 ^ 12 + imm12 w := by
  have := w.isLt
  simp only [opField, r1Field, r2Field, r3Field, imm12, bits]
  omega

/-! ### The fields of a packed word -/

section pack

variable {op x1 x2 x3 m : Nat} (hop : op < 256) (h1 : x1 < 16) (h2 : x2 < 16) (h3 : x3 < 16) (hm : m < 4096)

include hop h1 h2 h3 hm

theorem pack_toNat : (pack op x1 x2 x3 m).toNat = op * 2 ^ 24 + x1 * 2 ^ 20 + x2 * 2 ^ 16 + x3 * 2 ^ 12 + m := by
  rw [pack, BitVec.toNat_ofNat]; omega

theorem opField_pack : opField (pack op x1 x2 x3 m) = op := by
  rw [opField, bits, pack_toNat hop h1 h2 h3 hm]; omega

theorem r1Field_pack : r1Field (pack op x1 x2 x3 m) = x1 := by
  rw [r1Field, bits, pack_toNat hop h1 h2 h3 hm]; omega

theorem r2Field_pack : r2Field (pack op x1 x2 x3 m) = x2 := by
  rw [r2Field, bits, pack_toNat hop h1 h2 h3 hm]; omega

theorem r3Field_pack : r3Field (pack op x1 x2 x3 m) = x3 := by
  rw [r3Field, bits, pack_toNat hop h1 h2 h3 hm]; omega

theorem imm12_pack : imm12 (pack op x1 x2 x3 m) = m := by
  rw [imm12, bits, pack_toNat hop h1 h2 h3 hm]; omega

end pack

/-- A word is the packing of its fields. -/
theorem pack_fields (w : Word) : pack (opField w) (r1Field w) (r2Field w) (r3Field w) (imm12 w) = w := by
  apply BitVec.eq_of_toNat_eq
  rw [pack_toNat (opField_lt w) (r1Field_lt w) (r2Field_lt w) (r3Field_lt w) (imm12_lt w)]
  exact (word_eq_fields w).symm

/-! ### Fields bit by bit -/

/-- A field has a value when each of its bits has the value's bit. -/
theorem bits_eq_iff (w : Word) (lo n c : Nat) (hc : c < 2 ^ n) :
    bits w lo n = c ↔ ∀ k < n, w.getLsbD (lo + k) = c.testBit k := by
  constructor
  · rintro rfl k hk
    simp [bits, Nat.testBit_mod_two_pow, Nat.testBit_div_two_pow, hk, BitVec.getLsbD, Nat.add_comm]
  · intro h
    apply Nat.eq_of_testBit_eq
    intro k
    by_cases hk : k < n
    · rw [← h k hk]
      simp [bits, Nat.testBit_mod_two_pow, Nat.testBit_div_two_pow, hk, BitVec.getLsbD, Nat.add_comm]
    · rw [Nat.testBit_lt_two_pow (hc.trans_le (Nat.pow_le_pow_right (by omega) (by omega)))]
      simp [bits, Nat.testBit_mod_two_pow, hk]

/-! ### Masks field by field -/

theorem bits_and (w m : Word) (lo n : Nat) : bits (w &&& m) lo n = bits w lo n &&& bits m lo n := by
  apply Nat.eq_of_testBit_eq
  intro k
  simp only [bits, BitVec.toNat_and, Nat.testBit_and, Nat.testBit_mod_two_pow, Nat.testBit_div_two_pow]
  cases decide (k < n) <;> simp

/-- Two words are equal when their fields are. -/
theorem word_eq_iff_fields (w v : Word) :
    w = v ↔ opField w = opField v ∧ r1Field w = r1Field v ∧ r2Field w = r2Field v ∧ r3Field w = r3Field v ∧
      imm12 w = imm12 v := by
  constructor
  · rintro rfl; exact ⟨rfl, rfl, rfl, rfl, rfl⟩
  · rintro ⟨h0, h1, h2, h3, h4⟩
    rw [← pack_fields w, ← pack_fields v, h0, h1, h2, h3, h4]

/-- A masked word has a value when each field, masked by the mask's field, has the value's field. -/
theorem masked_eq_iff_fields (w m v : Word) :
    w &&& m = v ↔ opField w &&& opField m = opField v ∧ r1Field w &&& r1Field m = r1Field v ∧
      r2Field w &&& r2Field m = r2Field v ∧ r3Field w &&& r3Field m = r3Field v ∧ imm12 w &&& imm12 m = imm12 v := by
  rw [word_eq_iff_fields]
  simp only [opField, r1Field, r2Field, r3Field, imm12, bits_and]

/-! ### The decoder -/

theorem mustBeZero_ok {w : Word} {z : Nat} {i j : Instr} (h : mustBeZero w z i = .ok j) : z = 0 ∧ j = i := by
  rw [mustBeZero] at h
  split at h
  · exact ⟨‹_›, (Except.ok.inj h).symm⟩
  · cases h

theorem mustBeZero_zero (w : Word) (i : Instr) : mustBeZero w 0 i = .ok i := rfl

/-- What the decoder answers is well formed. -/
theorem decode_wellFormed {w : Word} {i : Instr} (h : decode w = .ok i) : i.wellFormed = true := by
  unfold decode at h
  split at h <;> first
    | (obtain ⟨-, rfl⟩ := mustBeZero_ok h
       simp [Instr.wellFormed, fitsImm12, fitsR3, imm12_lt, r3Field_lt])
    | (cases h <;> simp [Instr.wellFormed, fitsImm12, imm12_lt])

end Sys2Proof
end

