-- ==== Sys2Proof/Laws/Registers.lean ====
section
/-! SUPPORT. Reading a register after writing one, and what the register reads of a check phase answer. -/

namespace Sys2Proof.Machine

namespace State

variable (s : State) (i j : RegIdx)

@[simp] theorem writeF_same (v m : Nat) (N : Bool) : (s.writeF i v m N).F[i] = ⟨v, m, N, true⟩ := by simp

theorem writeF_other (v m : Nat) (N : Bool) (h : j ≠ i) : (s.writeF i v m N).F[j] = s.F[j] := by
  have : i.val ≠ j.val := fun e => h (Fin.ext e.symm)
  simp [this]

@[simp] theorem writeS_same (v : Nat) : (s.writeS i v).S[i] = ⟨v, true⟩ := by simp

theorem writeS_other (v : Nat) (h : j ≠ i) : (s.writeS i v).S[j] = s.S[j] := by
  have : i.val ≠ j.val := fun e => h (Fin.ext e.symm)
  simp [this]

@[simp] theorem writeA_same (Q : Point) : (s.writeA i Q).A[i] = ⟨Q, true⟩ := by simp

theorem writeA_other (Q : Point) (h : j ≠ i) : (s.writeA i Q).A[j] = s.A[j] := by
  have : i.val ≠ j.val := fun e => h (Fin.ext e.symm)
  simp [this]

@[simp] theorem writeJ_same (Q : Point) : (s.writeJ i Q).J[i] = ⟨Q, true⟩ := by simp

theorem writeJ_other (Q : Point) (h : j ≠ i) : (s.writeJ i Q).J[j] = s.J[j] := by
  have : i.val ≠ j.val := fun e => h (Fin.ext e.symm)
  simp [this]

end State

/-! ### Register reads -/

variable {s : State} {i : RegIdx}

theorem rdF_ok (h : s.F[i].valid = true) : rdF s i = .ok s.F[i] := by simp only [rdF, h, if_true]

theorem rdF_unwritten (h : s.F[i].valid = false) : rdF s i = .error .uninit := by
  simp only [rdF, h]; rfl

theorem rdS_ok (h : s.S[i].valid = true) : rdS s i = .ok s.S[i].v := by simp only [rdS, h, if_true]

theorem rdS_unwritten (h : s.S[i].valid = false) : rdS s i = .error .uninit := by
  simp only [rdS, h]; rfl

theorem rdA_ok (h : s.A[i].valid = true) : rdA s i = .ok s.A[i].pt := by simp only [rdA, h, if_true]

theorem rdA_unwritten (h : s.A[i].valid = false) : rdA s i = .error .uninit := by
  simp only [rdA, h]; rfl

theorem rdJ_ok (h : s.J[i].valid = true) : rdJ s i = .ok s.J[i].pt := by simp only [rdJ, h, if_true]

theorem rdJ_unwritten (h : s.J[i].valid = false) : rdJ s i = .error .uninit := by
  simp only [rdJ, h]; rfl

/-- A register read answers the register's contents when it was written, and UNINIT otherwise. -/
theorem rdF_cases (s : State) (i : RegIdx) :
    (s.F[i].valid = true ∧ rdF s i = .ok s.F[i]) ∨ (s.F[i].valid = false ∧ rdF s i = .error .uninit) := by
  cases h : s.F[i].valid
  · exact .inr ⟨rfl, rdF_unwritten h⟩
  · exact .inl ⟨rfl, rdF_ok h⟩

theorem rdS_cases (s : State) (i : RegIdx) :
    (s.S[i].valid = true ∧ rdS s i = .ok s.S[i].v) ∨ (s.S[i].valid = false ∧ rdS s i = .error .uninit) := by
  cases h : s.S[i].valid
  · exact .inr ⟨rfl, rdS_unwritten h⟩
  · exact .inl ⟨rfl, rdS_ok h⟩

theorem rdA_cases (s : State) (i : RegIdx) :
    (s.A[i].valid = true ∧ rdA s i = .ok s.A[i].pt) ∨ (s.A[i].valid = false ∧ rdA s i = .error .uninit) := by
  cases h : s.A[i].valid
  · exact .inr ⟨rfl, rdA_unwritten h⟩
  · exact .inl ⟨rfl, rdA_ok h⟩

theorem rdJ_cases (s : State) (i : RegIdx) :
    (s.J[i].valid = true ∧ rdJ s i = .ok s.J[i].pt) ∨ (s.J[i].valid = false ∧ rdJ s i = .error .uninit) := by
  cases h : s.J[i].valid
  · exact .inr ⟨rfl, rdJ_unwritten h⟩
  · exact .inl ⟨rfl, rdJ_ok h⟩

/-! ### Checks and the frame of an instruction -/

@[simp] theorem raiseIf_true (c : Cause) : raiseIf c true = .error c := rfl
@[simp] theorem raiseIf_false (c : Cause) : raiseIf c false = .ok () := rfl

@[simp] theorem settle_ok (s t : State) : settle s (.ok t) = .next t := rfl
@[simp] theorem settle_error (s : State) (c : Cause) : settle s (.error c) = .next (s.takeFault c) := rfl

/-- Everything an instruction can do: commit the state its check phase passed on, or take the fault it raised. -/
theorem settle_cases {s t : State} {r : Except Cause State} (h : settle s r = .next t) :
    r = .ok t ∨ ∃ c, r = .error c ∧ t = s.takeFault c := by
  cases r with
  | ok u => left; simp only [settle_ok, Host.Outcome.next.injEq] at h; rw [h]
  | error c => right; simp only [settle_error, Host.Outcome.next.injEq] at h; exact ⟨c, rfl, h.symm⟩

/-- Peel one step of a check phase that went through. -/
theorem bind_eq_ok {α β : Type} {r : Except Cause α} {k : α → Except Cause β} {b : β} (h : (r >>= k) = .ok b) :
    ∃ a, r = .ok a ∧ k a = .ok b := by
  cases r with
  | ok a => exact ⟨a, rfl, h⟩
  | error c => cases h

/-- Where a check phase that raises a fault raises it. -/
theorem bind_eq_error {α β : Type} {r : Except Cause α} {k : α → Except Cause β} {c : Cause}
    (h : (r >>= k) = .error c) : r = .error c ∨ ∃ a, r = .ok a ∧ k a = .error c := by
  cases r with
  | ok a => exact .inr ⟨a, rfl, h⟩
  | error c' => left; cases h; rfl

@[simp] theorem ok_bind {α β : Type} (a : α) (k : α → Except Cause β) : ((.ok a : Except Cause α) >>= k) = k a := rfl
@[simp] theorem error_bind {α β : Type} (c : Cause) (k : α → Except Cause β) :
    ((.error c : Except Cause α) >>= k) = .error c := rfl
@[simp] theorem pure_eq_ok {α : Type} (a : α) : (pure a : Except Cause α) = .ok a := rfl

theorem raiseIf_eq_ok {c : Cause} {bad : Bool} {u : Unit} (h : raiseIf c bad = .ok u) : bad = false := by
  cases bad with
  | false => rfl
  | true => simp at h

theorem raiseIf_eq_error {c c' : Cause} {bad : Bool} (h : raiseIf c bad = .error c') : bad = true ∧ c' = c := by
  cases bad with
  | false => simp at h
  | true => simp at h; exact ⟨rfl, h.symm⟩

end Sys2Proof.Machine
end

