-- ==== Sys2Proof/Laws/Commit.lean ====
section
/-! SUPPORT. What the larger updates leave in each field, and what one step of the machine can be: the engine's at the
state with its move taken off the list, a host access, or a hard reset. -/

namespace Sys2Proof.Machine

namespace State

/-! ### Updates with several outcomes -/

theorem writeGroup_known (s : State) (i : RegIdx) (Q : Point) : s.writeGroup i true Q = s.writeJ i Q := rfl
theorem writeGroup_unknown (s : State) (i : RegIdx) (Q : Point) : s.writeGroup i false Q = s.drawJ i := rfl

section writeGroup

variable (s : State) (i : RegIdx) (known : Bool) (Q : Point)

@[simp] theorem writeGroup_F : (s.writeGroup i known Q).F = s.F := by cases known <;> rfl
@[simp] theorem writeGroup_S : (s.writeGroup i known Q).S = s.S := by cases known <;> rfl
@[simp] theorem writeGroup_A : (s.writeGroup i known Q).A = s.A := by cases known <;> rfl
@[simp] theorem writeGroup_C : (s.writeGroup i known Q).C = s.C := by cases known <;> rfl
@[simp] theorem writeGroup_K : (s.writeGroup i known Q).K = s.K := by cases known <;> rfl
@[simp] theorem writeGroup_pc : (s.writeGroup i known Q).pc = s.pc := by cases known <;> rfl
@[simp] theorem writeGroup_GCTX : (s.writeGroup i known Q).GCTX = s.GCTX := by cases known <;> rfl
@[simp] theorem writeGroup_genTable : (s.writeGroup i known Q).genTable = s.genTable := by cases known <;> rfl
@[simp] theorem writeGroup_run : (s.writeGroup i known Q).run = s.run := by cases known <;> rfl
@[simp] theorem writeGroup_DONE : (s.writeGroup i known Q).DONE = s.DONE := by cases known <;> rfl
@[simp] theorem writeGroup_FAULT : (s.writeGroup i known Q).FAULT = s.FAULT := by cases known <;> rfl
@[simp] theorem writeGroup_ACCERR : (s.writeGroup i known Q).ACCERR = s.ACCERR := by cases known <;> rfl
@[simp] theorem writeGroup_CMDERR : (s.writeGroup i known Q).CMDERR = s.CMDERR := by cases known <;> rfl
@[simp] theorem writeGroup_IRQ_EN : (s.writeGroup i known Q).IRQ_EN = s.IRQ_EN := by cases known <;> rfl
@[simp] theorem writeGroup_ENTRY : (s.writeGroup i known Q).ENTRY = s.ENTRY := by cases known <;> rfl
@[simp] theorem writeGroup_CAUSE : (s.writeGroup i known Q).CAUSE = s.CAUSE := by cases known <;> rfl
@[simp] theorem writeGroup_FAULT_PC : (s.writeGroup i known Q).FAULT_PC = s.FAULT_PC := by cases known <;> rfl
@[simp] theorem writeGroup_cmdmem : (s.writeGroup i known Q).cmdmem = s.cmdmem := by cases known <;> rfl
@[simp] theorem writeGroup_dmem : (s.writeGroup i known Q).dmem = s.dmem := by cases known <;> rfl
@[simp] theorem writeGroup_powerUps : (s.writeGroup i known Q).powerUps = s.powerUps := by cases known <;> rfl
@[simp] theorem writeGroup_inputs : (s.writeGroup i known Q).inputs = s.inputs := by cases known <;> rfl
@[simp] theorem writeGroup_response : (s.writeGroup i known Q).response = s.response := by cases known <;> rfl

end writeGroup

section writeSignature

variable (s : State) (slot : Nat) (sig : Option Signature)

@[simp] theorem writeSignature_F : (s.writeSignature slot sig).F = s.F := by cases sig <;> rfl
@[simp] theorem writeSignature_S : (s.writeSignature slot sig).S = s.S := by cases sig <;> rfl
@[simp] theorem writeSignature_A : (s.writeSignature slot sig).A = s.A := by cases sig <;> rfl
@[simp] theorem writeSignature_J : (s.writeSignature slot sig).J = s.J := by cases sig <;> rfl
@[simp] theorem writeSignature_K : (s.writeSignature slot sig).K = s.K := by cases sig <;> rfl
@[simp] theorem writeSignature_pc : (s.writeSignature slot sig).pc = s.pc := by cases sig <;> rfl
@[simp] theorem writeSignature_GCTX : (s.writeSignature slot sig).GCTX = s.GCTX := by cases sig <;> rfl
@[simp] theorem writeSignature_genTable : (s.writeSignature slot sig).genTable = s.genTable := by cases sig <;> rfl
@[simp] theorem writeSignature_run : (s.writeSignature slot sig).run = s.run := by cases sig <;> rfl
@[simp] theorem writeSignature_DONE : (s.writeSignature slot sig).DONE = s.DONE := by cases sig <;> rfl
@[simp] theorem writeSignature_FAULT : (s.writeSignature slot sig).FAULT = s.FAULT := by cases sig <;> rfl
@[simp] theorem writeSignature_ACCERR : (s.writeSignature slot sig).ACCERR = s.ACCERR := by cases sig <;> rfl
@[simp] theorem writeSignature_CMDERR : (s.writeSignature slot sig).CMDERR = s.CMDERR := by cases sig <;> rfl
@[simp] theorem writeSignature_IRQ_EN : (s.writeSignature slot sig).IRQ_EN = s.IRQ_EN := by cases sig <;> rfl
@[simp] theorem writeSignature_ENTRY : (s.writeSignature slot sig).ENTRY = s.ENTRY := by cases sig <;> rfl
@[simp] theorem writeSignature_CAUSE : (s.writeSignature slot sig).CAUSE = s.CAUSE := by cases sig <;> rfl
@[simp] theorem writeSignature_FAULT_PC : (s.writeSignature slot sig).FAULT_PC = s.FAULT_PC := by cases sig <;> rfl
@[simp] theorem writeSignature_cmdmem : (s.writeSignature slot sig).cmdmem = s.cmdmem := by cases sig <;> rfl
@[simp] theorem writeSignature_draws : (s.writeSignature slot sig).draws = s.draws := by cases sig <;> rfl
@[simp] theorem writeSignature_powerUps : (s.writeSignature slot sig).powerUps = s.powerUps := by cases sig <;> rfl
@[simp] theorem writeSignature_inputs : (s.writeSignature slot sig).inputs = s.inputs := by cases sig <;> rfl
@[simp] theorem writeSignature_response : (s.writeSignature slot sig).response = s.response := by cases sig <;> rfl

end writeSignature

section writeRecovered

variable (s : State) (d : RegIdx) (key : Option Point)

@[simp] theorem writeRecovered_F : (s.writeRecovered d key).F = s.F := by cases key <;> rfl
@[simp] theorem writeRecovered_S : (s.writeRecovered d key).S = s.S := by cases key <;> rfl
@[simp] theorem writeRecovered_J : (s.writeRecovered d key).J = s.J := by cases key <;> rfl
@[simp] theorem writeRecovered_K : (s.writeRecovered d key).K = s.K := by cases key <;> rfl
@[simp] theorem writeRecovered_pc : (s.writeRecovered d key).pc = s.pc := by cases key <;> rfl
@[simp] theorem writeRecovered_GCTX : (s.writeRecovered d key).GCTX = s.GCTX := by cases key <;> rfl
@[simp] theorem writeRecovered_genTable : (s.writeRecovered d key).genTable = s.genTable := by cases key <;> rfl
@[simp] theorem writeRecovered_run : (s.writeRecovered d key).run = s.run := by cases key <;> rfl
@[simp] theorem writeRecovered_DONE : (s.writeRecovered d key).DONE = s.DONE := by cases key <;> rfl
@[simp] theorem writeRecovered_FAULT : (s.writeRecovered d key).FAULT = s.FAULT := by cases key <;> rfl
@[simp] theorem writeRecovered_ACCERR : (s.writeRecovered d key).ACCERR = s.ACCERR := by cases key <;> rfl
@[simp] theorem writeRecovered_CMDERR : (s.writeRecovered d key).CMDERR = s.CMDERR := by cases key <;> rfl
@[simp] theorem writeRecovered_IRQ_EN : (s.writeRecovered d key).IRQ_EN = s.IRQ_EN := by cases key <;> rfl
@[simp] theorem writeRecovered_ENTRY : (s.writeRecovered d key).ENTRY = s.ENTRY := by cases key <;> rfl
@[simp] theorem writeRecovered_CAUSE : (s.writeRecovered d key).CAUSE = s.CAUSE := by cases key <;> rfl
@[simp] theorem writeRecovered_FAULT_PC : (s.writeRecovered d key).FAULT_PC = s.FAULT_PC := by cases key <;> rfl
@[simp] theorem writeRecovered_cmdmem : (s.writeRecovered d key).cmdmem = s.cmdmem := by cases key <;> rfl
@[simp] theorem writeRecovered_dmem : (s.writeRecovered d key).dmem = s.dmem := by cases key <;> rfl
@[simp] theorem writeRecovered_draws : (s.writeRecovered d key).draws = s.draws := by cases key <;> rfl
@[simp] theorem writeRecovered_powerUps : (s.writeRecovered d key).powerUps = s.powerUps := by cases key <;> rfl
@[simp] theorem writeRecovered_inputs : (s.writeRecovered d key).inputs = s.inputs := by cases key <;> rfl
@[simp] theorem writeRecovered_response : (s.writeRecovered d key).response = s.response := by cases key <;> rfl

end writeRecovered

/-! ### Taking a move off the list -/

theorem popMove_of_nil {s : State} (h : s.inputs = []) : s.popMove = s := by
  cases s; cases h; rfl

section popMove

variable (s : State)

@[simp] theorem popMove_F : s.popMove.F = s.F := rfl
@[simp] theorem popMove_S : s.popMove.S = s.S := rfl
@[simp] theorem popMove_A : s.popMove.A = s.A := rfl
@[simp] theorem popMove_J : s.popMove.J = s.J := rfl
@[simp] theorem popMove_C : s.popMove.C = s.C := rfl
@[simp] theorem popMove_K : s.popMove.K = s.K := rfl
@[simp] theorem popMove_pc : s.popMove.pc = s.pc := rfl
@[simp] theorem popMove_GCTX : s.popMove.GCTX = s.GCTX := rfl
@[simp] theorem popMove_genTable : s.popMove.genTable = s.genTable := rfl
@[simp] theorem popMove_run : s.popMove.run = s.run := rfl
@[simp] theorem popMove_DONE : s.popMove.DONE = s.DONE := rfl
@[simp] theorem popMove_FAULT : s.popMove.FAULT = s.FAULT := rfl
@[simp] theorem popMove_ACCERR : s.popMove.ACCERR = s.ACCERR := rfl
@[simp] theorem popMove_CMDERR : s.popMove.CMDERR = s.CMDERR := rfl
@[simp] theorem popMove_IRQ_EN : s.popMove.IRQ_EN = s.IRQ_EN := rfl
@[simp] theorem popMove_ENTRY : s.popMove.ENTRY = s.ENTRY := rfl
@[simp] theorem popMove_CAUSE : s.popMove.CAUSE = s.CAUSE := rfl
@[simp] theorem popMove_FAULT_PC : s.popMove.FAULT_PC = s.FAULT_PC := rfl
@[simp] theorem popMove_cmdmem : s.popMove.cmdmem = s.cmdmem := rfl
@[simp] theorem popMove_dmem : s.popMove.dmem = s.dmem := rfl
@[simp] theorem popMove_draws : s.popMove.draws = s.draws := rfl
@[simp] theorem popMove_powerUps : s.popMove.powerUps = s.powerUps := rfl
@[simp] theorem popMove_response : s.popMove.response = s.response := rfl
@[simp] theorem popMove_fetch : s.popMove.fetch = s.fetch := rfl

end popMove

end State

/-! ### One step -/

/-- When the engine moves next, the step is the engine's. -/
theorem step_engine {s : State} (h : engineMovesNext s) : step s = engineStep s.popMove := by
  rcases h with h | ⟨rest, h⟩
  · rw [State.popMove_of_nil h, step, moveStep, h]
  · rw [step, moveStep, State.popMove, h]; rfl

theorem step_host {s : State} {a : BusAccess} {rest : List Move} (h : s.inputs = .host a :: rest) :
    step s = .next ((s.withInputs rest).hostAccess a) := by rw [step, moveStep, h]

theorem step_hardReset {s : State} {rest : List Move} (h : s.inputs = .hardReset :: rest) :
    step s = .next (s.withInputs rest).hardReset := by rw [step, moveStep, h]

/-- Everything a step can be. -/
theorem step_cases (s : State) :
    (engineMovesNext s ∧ step s = engineStep s.popMove) ∨
    (∃ a rest, s.inputs = .host a :: rest ∧ step s = .next ((s.withInputs rest).hostAccess a)) ∨
    (∃ rest, s.inputs = .hardReset :: rest ∧ step s = .next (s.withInputs rest).hardReset) := by
  cases h : s.inputs with
  | nil => exact .inl ⟨.inl h, step_engine (.inl h)⟩
  | cons m rest =>
    cases m with
    | engine => exact .inl ⟨.inr ⟨rest, h⟩, step_engine (.inr ⟨rest, h⟩)⟩
    | host a => exact .inr (.inl ⟨a, rest, rfl, step_host h⟩)
    | hardReset => exact .inr (.inr ⟨rest, rfl, step_hardReset h⟩)

/-- Everything a step of the engine can be. -/
theorem engineStep_cases (s : State) :
    (s.run = .idle ∧ engineStep s = .next s) ∨
    (s.run = .running ∧ ∃ i, decode s.fetch = .ok i ∧ engineStep s = exec i s) ∨
    (s.run = .running ∧ ∃ e, decode s.fetch = .error e ∧ engineStep s = .next (s.takeFault .illegal)) := by
  cases h : s.run with
  | idle => exact .inl ⟨rfl, by rw [engineStep, h]⟩
  | running =>
    cases hd : decode s.fetch with
    | ok i => exact .inr (.inl ⟨rfl, i, rfl, by rw [engineStep, h]; simp only [hd]⟩)
    | error e => exact .inr (.inr ⟨rfl, e, rfl, by rw [engineStep, h]; simp only [hd]; rfl⟩)

end Sys2Proof.Machine
end

