-- ==== Sys2Proof/Laws/Curve.lean ====
section
/-! SUPPORT. The group law of 00_scope.md R18 is the group law of the curve: the points of the model that are reduced
and on the curve represent the points of Mathlib's Weierstrass curve y^2 = x^3 + 7 over ZMod p, and Add, Dbl, Neg, Mul
represent its operations. So doubling-and-adding is repeated addition there. -/

namespace Sys2Proof.Machine

open Sys2Proof.Config

theorem P_FIELD_fact : Fact P_FIELD.Prime := ⟨P_FIELD_prime⟩

section field

variable {F : Type} [Field F] [CharP F P_FIELD]

/-- The curve y^2 = x^3 + 7 (00_scope.md R4). -/
def curve (F : Type) [Field F] : WeierstrassCurve F := ⟨0, 0, 0, 0, 7⟩

/-! ### Residues -/

theorem cast_mod (a : Nat) : ((a % P_FIELD : Nat) : F) = a := by
  conv_rhs => rw [← Nat.mod_add_div a P_FIELD, Nat.cast_add, Nat.cast_mul, CharP.cast_eq_zero F P_FIELD, zero_mul, add_zero]

theorem cast_eq_cast_iff (a b : Nat) : (a : F) = b ↔ a % P_FIELD = b % P_FIELD :=
  CharP.natCast_eq_natCast F P_FIELD

theorem subP_lt (a b : Nat) : subP a b < P_FIELD := Nat.mod_lt _ P_FIELD_pos

theorem cast_subP (a b : Nat) : ((subP a b : Nat) : F) = (a : F) - b := by
  have hb : b % P_FIELD ≤ P_FIELD := (Nat.mod_lt _ P_FIELD_pos).le
  rw [subP, cast_mod, Nat.cast_add, Nat.cast_sub hb, cast_mod, CharP.cast_eq_zero F P_FIELD]
  ring

/-- Fermat's little theorem, on naturals. -/
theorem pow_pred_mod {a : Nat} (h : a % P_FIELD ≠ 0) : a ^ (P_FIELD - 1) % P_FIELD = 1 := by
  have := P_FIELD_fact
  have ha : (a : ZMod P_FIELD) ≠ 0 := by
    rw [Ne, ZMod.natCast_eq_zero_iff]; exact fun hd => h (Nat.mod_eq_zero_of_dvd hd)
  have h1 := ZMod.pow_card_sub_one_eq_one ha
  have h2 : ((a ^ (P_FIELD - 1) : Nat) : ZMod P_FIELD) = ((1 : Nat) : ZMod P_FIELD) := by
    rw [Nat.cast_pow, h1, Nat.cast_one]
  rwa [ZMod.natCast_eq_natCast_iff', Nat.mod_eq_of_lt (show 1 < P_FIELD by decide)] at h2

/-- `inv_p(a) a = 1 mod p` when a is no multiple of p (00_scope.md R12). -/
theorem mul_invP {a : Nat} (h : a % P_FIELD ≠ 0) : a * invP a % P_FIELD = 1 := by
  rw [invP, powMod_eq, Nat.mul_mod, Nat.mod_mod, ← Nat.mul_mod, ← pow_succ']
  exact pow_pred_mod h

theorem cast_invP (a : Nat) : ((invP a : Nat) : F) = (a : F)⁻¹ := by
  by_cases h : a % P_FIELD = 0
  · have h0 : (a : F) = 0 := by rw [← cast_mod, h, Nat.cast_zero]
    rw [invP, powMod_eq, cast_mod, Nat.cast_pow, h0, inv_zero]; exact zero_pow (by decide)
  · refine eq_inv_of_mul_eq_one_right ?_
    rw [← Nat.cast_mul, ← cast_mod, mul_invP h, Nat.cast_one]

/-- Residues below p are equal when they are equal in the field. -/
theorem eq_of_cast_eq {a b : Nat} (ha : a < P_FIELD) (hb : b < P_FIELD) (h : (a : F) = b) : a = b := by
  rwa [cast_eq_cast_iff, Nat.mod_eq_of_lt ha, Nat.mod_eq_of_lt hb] at h

theorem cast_ne_zero {a : Nat} (ha : a < P_FIELD) (h : a ≠ 0) : (a : F) ≠ 0 := fun h0 =>
  h (eq_of_cast_eq ha P_FIELD_pos (h0.trans Nat.cast_zero.symm))

theorem two_ne_zero' : (2 : F) ≠ 0 := by
  simpa using cast_ne_zero (F := F) (a := 2) (by decide) (by decide)

/-! ### The curve -/

theorem curve_disc_ne_zero : (curve F).Δ ≠ 0 := by
  have h : (curve F).Δ = -((21168 : Nat) : F) := by
    simp only [WeierstrassCurve.Δ, WeierstrassCurve.b₂, WeierstrassCurve.b₄, WeierstrassCurve.b₆, WeierstrassCurve.b₈,
      curve]
    push_cast; ring
  rw [h, neg_ne_zero]
  exact cast_ne_zero (by decide) (by decide)

theorem nonsingular_iff (x y : F) : (curve F).toAffine.Nonsingular x y ↔ y ^ 2 = x ^ 3 + 7 := by
  rw [← WeierstrassCurve.Affine.equation_iff_nonsingular_of_Δ_ne_zero curve_disc_ne_zero,
    WeierstrassCurve.Affine.equation_iff]
  simp [curve]

theorem onCurve_aff_iff (x y : Nat) :
    (Point.aff x y).onCurve = true ↔ (curve F).toAffine.Nonsingular (x : F) (y : F) := by
  rw [nonsingular_iff, Point.onCurve, decide_eq_true_iff, ← cast_eq_cast_iff (F := F), CURVE_B]
  push_cast; rfl

/-- A point of the model represents a point of the curve. -/
inductive Rep : Point → (curve F).toAffine.Point → Prop
  | inf : Rep .inf .zero
  | aff (x y : Nat) (hx : x < P_FIELD) (hy : y < P_FIELD) (h : (curve F).toAffine.Nonsingular (x : F) (y : F)) :
    Rep (.aff x y) (.some _ _ h)

namespace Rep

theorem onCurve {Q : Point} {R : (curve F).toAffine.Point} (h : Rep Q R) : Q.onCurve = true := by
  cases h with
  | inf => rfl
  | aff x y _ _ h => exact (onCurve_aff_iff x y).2 h

omit [CharP F P_FIELD] in
theorem reduced {Q : Point} {R : (curve F).toAffine.Point} (h : Rep Q R) : Q.reduced = true := by
  cases h with
  | inf => rfl
  | aff x y hx hy _ => simp [Point.reduced, hx, hy]

theorem exists_of {Q : Point} (hc : Q.onCurve = true) (hr : Q.reduced = true) : ∃ R : (curve F).toAffine.Point, Rep Q R := by
  cases Q with
  | inf => exact ⟨_, .inf⟩
  | aff x y =>
    simp only [Point.reduced, Bool.and_eq_true, decide_eq_true_iff] at hr
    exact ⟨_, .aff x y hr.1 hr.2 ((onCurve_aff_iff x y).1 hc)⟩

/-- One point of the model for each point of the curve. -/
theorem left_unique {Q Q' : Point} {R : (curve F).toAffine.Point} (h : Rep Q R) (h' : Rep Q' R) : Q = Q' := by
  cases h with
  | inf => cases h'; rfl
  | aff x y hx hy h =>
    generalize hR : (WeierstrassCurve.Affine.Point.some _ _ h : (curve F).toAffine.Point) = R at h'
    cases h' with
    | inf => simp at hR
    | aff x' y' hx' hy' h' =>
      simp only [WeierstrassCurve.Affine.Point.some.injEq] at hR
      rw [eq_of_cast_eq hx hx' hR.1, eq_of_cast_eq hy hy' hR.2]

theorem gen : ∃ R : (curve F).toAffine.Point, Rep Point.gen R := exists_of (by decide +kernel) (by decide +kernel)

theorem cast_negP {y : Nat} (hy : y < P_FIELD) : (((P_FIELD - y) % P_FIELD : Nat) : F) = -(y : F) := by
  rw [cast_mod, Nat.cast_sub hy.le, CharP.cast_eq_zero F P_FIELD, zero_sub]

theorem neg {Q : Point} {R : (curve F).toAffine.Point} (h : Rep Q R) : Rep Q.neg (-R) := by
  cases h with
  | inf => exact .inf
  | aff x y hx hy h =>
    have hn : (curve F).toAffine.Nonsingular (x : F) (((P_FIELD - y) % P_FIELD : Nat) : F) := by
      rw [nonsingular_iff] at h ⊢; rw [cast_negP hy, neg_sq]; exact h
    have hneg : -WeierstrassCurve.Affine.Point.some _ _ h = WeierstrassCurve.Affine.Point.some _ _ hn := by
      rw [WeierstrassCurve.Affine.Point.neg_some]
      simp only [WeierstrassCurve.Affine.Point.some.injEq, true_and]
      simp [WeierstrassCurve.Affine.negY, curve, cast_negP hy]
    rw [hneg]
    exact .aff _ _ hx (Nat.mod_lt _ P_FIELD_pos) hn

variable [DecidableEq F]

/-- The chord construction, for the slope of the curve's group law. -/
theorem chord_rep {l x1 y1 x2 y2 : Nat}
    {h1 : (curve F).toAffine.Nonsingular (x1 : F) (y1 : F)} {h2 : (curve F).toAffine.Nonsingular (x2 : F) (y2 : F)}
    (hne : ¬((x1 : F) = x2 ∧ (y1 : F) = (curve F).toAffine.negY x2 y2))
    (hl : (l : F) = (curve F).toAffine.slope (x1 : F) x2 y1 y2) :
    Rep (chord l x1 y1 x2)
      (WeierstrassCurve.Affine.Point.some _ _ h1 + WeierstrassCurve.Affine.Point.some _ _ h2) := by
  have hx3 : ((subP (l ^ 2) (x1 + x2) : Nat) : F)
      = (curve F).toAffine.addX (x1 : F) x2 ((curve F).toAffine.slope (x1 : F) x2 y1 y2) := by
    rw [cast_subP, ← hl]; push_cast
    simp only [WeierstrassCurve.Affine.addX, curve]; ring
  have hy3 : ((subP (l * subP x1 (subP (l ^ 2) (x1 + x2))) y1 : Nat) : F)
      = (curve F).toAffine.addY (x1 : F) x2 y1 ((curve F).toAffine.slope (x1 : F) x2 y1 y2) := by
    rw [cast_subP, Nat.cast_mul, cast_subP, hx3, hl]
    simp only [WeierstrassCurve.Affine.addY, WeierstrassCurve.Affine.negAddY, WeierstrassCurve.Affine.negY, curve]
    ring
  have hn := WeierstrassCurve.Affine.nonsingular_add h1 h2 hne
  have hn' : (curve F).toAffine.Nonsingular ((subP (l ^ 2) (x1 + x2) : Nat) : F)
      ((subP (l * subP x1 (subP (l ^ 2) (x1 + x2))) y1 : Nat) : F) := by rw [hx3, hy3]; exact hn
  have hsum : WeierstrassCurve.Affine.Point.some _ _ h1 + WeierstrassCurve.Affine.Point.some _ _ h2
      = WeierstrassCurve.Affine.Point.some _ _ hn' := by
    rw [WeierstrassCurve.Affine.Point.add_some hne]
    simp only [WeierstrassCurve.Affine.Point.some.injEq]
    exact ⟨hx3.symm, hy3.symm⟩
  rw [hsum]
  exact .aff _ _ (subP_lt _ _) (subP_lt _ _) hn'

omit [CharP F P_FIELD] [DecidableEq F] in
theorem negY_eq (x y : F) : (curve F).toAffine.negY x y = -y := by
  simp [WeierstrassCurve.Affine.negY, curve]

theorem dbl {Q : Point} {R : (curve F).toAffine.Point} (h : Rep Q R) : Rep Q.dbl (R + R) := by
  cases h with
  | inf => exact .inf
  | aff x y hx hy h =>
    rw [Point.dbl]
    split
    · subst y
      rw [WeierstrassCurve.Affine.Point.add_of_Y_eq rfl (by rw [negY_eq]; simp)]
      exact .inf
    · have hy0 : (y : F) ≠ 0 := by
        exact cast_ne_zero hy ‹_›
      have hyn : (y : F) ≠ (curve F).toAffine.negY x y := by
        rw [negY_eq]; intro he
        have : (2 : F) * y = 0 := by linear_combination he
        rcases mul_eq_zero.1 this with h2 | h2
        · exact two_ne_zero' h2
        · exact hy0 h2
      refine chord_rep (fun hc => hyn hc.2) ?_
      rw [WeierstrassCurve.Affine.slope_of_Y_ne rfl hyn, negY_eq, cast_mod]
      push_cast
      rw [cast_invP]
      push_cast
      rw [div_eq_mul_inv]
      congr 1
      · simp [curve]
      · congr 1; ring

theorem add {Q Q' : Point} {R R' : (curve F).toAffine.Point} (h : Rep Q R) (h' : Rep Q' R') : Rep (Q.add Q') (R + R') := by
  cases h with
  | inf => exact (zero_add R').symm ▸ (by cases Q' <;> exact h')
  | aff x1 y1 hx1 hy1 h1 =>
    cases h' with
    | inf => rw [show (WeierstrassCurve.Affine.Point.some _ _ h1 + WeierstrassCurve.Affine.Point.zero
          : (curve F).toAffine.Point) = .some _ _ h1 from add_zero _]; exact .aff x1 y1 hx1 hy1 h1
    | aff x2 y2 hx2 hy2 h2 =>
      rw [Point.add]
      split
      · subst x2
        split
        · subst y2
          exact dbl (.aff x1 y1 hx1 hy1 h1)
        · rename_i hy
          have hyc : (y1 : F) = -(y2 : F) := by
            have hne : (y1 : F) ≠ y2 := fun he => hy (eq_of_cast_eq hy1 hy2 he)
            have e1 := (nonsingular_iff _ _).1 h1
            have e2 := (nonsingular_iff _ _).1 h2
            have : ((y1 : F) - y2) * (y1 + y2) = 0 := by linear_combination e1 - e2
            rcases mul_eq_zero.1 this with h0 | h0
            · exact absurd (sub_eq_zero.1 h0) hne
            · linear_combination h0
          rw [WeierstrassCurve.Affine.Point.add_of_Y_eq rfl (by rw [negY_eq]; exact hyc)]
          exact .inf
      · rename_i hx
        have hxc : (x1 : F) ≠ x2 := fun he => hx (eq_of_cast_eq hx1 hx2 he)
        refine chord_rep (fun hc => hxc hc.1) ?_
        rw [WeierstrassCurve.Affine.slope_of_X_ne hxc, cast_mod]
        push_cast
        rw [cast_invP, cast_subP, cast_subP, div_eq_mul_inv, ← neg_sub (x2 : F), ← neg_sub (y2 : F), inv_neg,
          neg_mul_neg]

theorem mulSpec {Q : Point} {R : (curve F).toAffine.Point} (h : Rep Q R) : ∀ k : Nat, Rep (Q.mulSpec k) (k • R)
  | 0 => by rw [zero_smul]; exact .inf
  | k + 1 => by rw [succ_nsmul]; exact (mulSpec h k).add h

theorem mulAux :
    ∀ (fuel k : Nat) {Q : Point} {R : (curve F).toAffine.Point}, k ≤ fuel → Rep Q R → Rep (Q.mulAux fuel k) (k • R)
  | 0, k, _, _, hk, _ => by
    obtain rfl : k = 0 := by omega
    rw [zero_smul]; exact .inf
  | fuel + 1, k, Q, R, hk, h => by
    have half := mulAux fuel (k / 2) (by omega) h.dbl
    rw [← two_nsmul, smul_smul] at half
    rw [Point.mulAux]
    split
    · subst k; rw [zero_smul]; exact .inf
    · split
      · have hk2 : k = 1 + k / 2 * 2 := by omega
        have := h.add half
        rwa [← one_nsmul R, smul_smul, mul_one, ← add_smul, ← hk2] at this
      · rwa [show k / 2 * 2 = k by omega] at half

theorem mul {Q : Point} {R : (curve F).toAffine.Point} (h : Rep Q R) (k : Nat) : Rep (Q.mul k) (k • R) :=
  mulAux k k le_rfl h

end Rep

end field

/-! ### Consequences in the model's own terms -/

/-- Double-and-add is the repeated addition of 00_scope.md R18, on the curve. -/
theorem Point.mul_eq_mulSpec {Q : Point} (hc : Q.onCurve = true) (hr : Q.reduced = true) (k : Nat) :
    Q.mul k = Q.mulSpec k := by
  have := P_FIELD_fact
  obtain ⟨R, h⟩ := Rep.exists_of (F := ZMod P_FIELD) hc hr
  exact (h.mul k).left_unique (h.mulSpec k)

theorem Point.gen_onCurve : Point.gen.onCurve = true := by decide +kernel

theorem Point.gen_reduced : Point.gen.reduced = true := by decide +kernel

theorem Point.gen_mul_eq_mulSpec (k : Nat) : Point.gen.mul k = Point.gen.mulSpec k :=
  Point.mul_eq_mulSpec Point.gen_onCurve Point.gen_reduced k

theorem chord_reduced (l x1 y1 x2 : Nat) : (chord l x1 y1 x2).reduced = true := by
  simp [chord, Point.reduced, subP_lt]

theorem Point.neg_reduced {Q : Point} (h : Q.reduced = true) : Q.neg.reduced = true := by
  cases Q with
  | inf => rfl
  | aff x y =>
    simp only [Point.reduced, Bool.and_eq_true, decide_eq_true_iff] at h
    simp [Point.neg, Point.reduced, h.1, Nat.mod_lt _ P_FIELD_pos]

theorem Point.dbl_reduced (Q : Point) : Q.dbl.reduced = true := by
  cases Q with
  | inf => rfl
  | aff x y => rw [Point.dbl]; split <;> first | rfl | exact chord_reduced ..

theorem Point.add_reduced {Q Q' : Point} (h : Q.reduced = true) (h' : Q'.reduced = true) :
    (Q.add Q').reduced = true := by
  cases Q with
  | inf => cases Q' <;> exact h'
  | aff x1 y1 =>
    cases Q' with
    | inf => exact h
    | aff x2 y2 =>
      rw [Point.add]
      split
      · split
        · exact Point.dbl_reduced _
        · rfl
      · exact chord_reduced ..

theorem Point.mulAux_reduced : ∀ (fuel k : Nat) {Q : Point}, Q.reduced = true → (Q.mulAux fuel k).reduced = true
  | 0, _, _, _ => rfl
  | fuel + 1, k, Q, h => by
    rw [Point.mulAux]
    split
    · rfl
    · split
      · exact Point.add_reduced h (mulAux_reduced fuel _ (Point.dbl_reduced Q))
      · exact mulAux_reduced fuel _ (Point.dbl_reduced Q)

theorem Point.mul_reduced {Q : Point} (h : Q.reduced = true) (k : Nat) : (Q.mul k).reduced = true :=
  Point.mulAux_reduced k k h

theorem combined_reduced {Q : Point} (h : Q.reduced = true) (a b : Nat) : (combined a b Q).reduced = true :=
  Point.add_reduced (Point.mul_reduced Point.gen_reduced a) (Point.mul_reduced h b)

theorem drawnPoint_reduced (k : Nat) : (drawnPoint k).reduced = true := by
  unfold drawnPoint; split
  · rfl
  · simp [Point.reduced, Nat.mod_lt _ P_FIELD_pos]

/-- The combined multiply represents a*G + b*Q. -/
theorem combined_rep {F : Type} [Field F] [DecidableEq F] [CharP F P_FIELD] {Q : Point}
    {G R : (curve F).toAffine.Point} (hG : Rep Point.gen G) (hQ : Rep Q R) (a b : Nat) :
    Rep (combined a b Q) (a • G + b • R) :=
  (hG.mul a).add (hQ.mul b)

/-- n times the generator is infinity (00_scope.md R6). -/
theorem Point.order_gen : Point.gen.mul N_ORDER = .inf := by decide +kernel

end Sys2Proof.Machine
end

