-- ==== Sys2Proof/Laws/Residues.lean ====
section
/-! SUPPORT. Inverses and Montgomery products mod n and mod p, and square roots mod p: what the helpers of
00_scope.md R17 compute, in terms of products of residues. -/

namespace Sys2Proof.Machine

open Sys2Proof.Config

theorem N_ORDER_fact : Fact N_ORDER.Prime := ⟨N_ORDER_prime⟩

/-- Fermat's little theorem for a prime modulus, on naturals. -/
theorem pow_pred_mod_prime {q : Nat} (hq : q.Prime) {a : Nat} (h : a % q ≠ 0) : a ^ (q - 1) % q = 1 := by
  have : Fact q.Prime := ⟨hq⟩
  have ha : (a : ZMod q) ≠ 0 := by
    rw [Ne, ZMod.natCast_eq_zero_iff]; exact fun hd => h (Nat.mod_eq_zero_of_dvd hd)
  have h1 := ZMod.pow_card_sub_one_eq_one ha
  have h2 : ((a ^ (q - 1) : Nat) : ZMod q) = ((1 : Nat) : ZMod q) := by rw [Nat.cast_pow, h1, Nat.cast_one]
  rwa [ZMod.natCast_eq_natCast_iff', Nat.mod_eq_of_lt hq.one_lt] at h2

/-- `inv_n(a) a = 1 mod n` when a is no multiple of n (00_scope.md R12). -/
theorem mul_invN {a : Nat} (h : a % N_ORDER ≠ 0) : a * invN a % N_ORDER = 1 := by
  rw [invN, powMod_eq, Nat.mul_mod, Nat.mod_mod, ← Nat.mul_mod, ← pow_succ']
  exact pow_pred_mod_prime N_ORDER_prime h

theorem invN_lt (a : Nat) : invN a < N_ORDER := powMod_lt N_ORDER_pos _ _
theorem invP_lt (a : Nat) : invP a < P_FIELD := powMod_lt P_FIELD_pos _ _

/-- A factor prime to the modulus can be cancelled. -/
theorem eq_of_mul_mod_eq {q a x y : Nat} (hq : q.Prime) (ha : a % q ≠ 0) (hx : x < q) (hy : y < q)
    (h : a * x % q = a * y % q) : x = y := by
  have hc : Nat.Coprime q a := (Nat.Prime.coprime_iff_not_dvd hq).2 fun hd => ha (Nat.mod_eq_zero_of_dvd hd)
  have := Nat.ModEq.cancel_left_of_coprime hc (show a * x ≡ a * y [MOD q] from h)
  rwa [Nat.ModEq, Nat.mod_eq_of_lt hx, Nat.mod_eq_of_lt hy] at this

theorem montP_lt (a b : Nat) : montP a b < P_FIELD := Nat.mod_lt _ P_FIELD_pos
theorem montN_lt (a b : Nat) : montN a b < N_ORDER := Nat.mod_lt _ N_ORDER_pos

/-- `mont_p(a, b)` times the radix is a b (00_scope.md R17). -/
theorem montP_mul_radix (a b : Nat) : montP a b * R_MONT % P_FIELD = a * b % P_FIELD := by
  have h : R_MONT % P_FIELD * invP (R_MONT % P_FIELD) % P_FIELD = 1 := mul_invP (by decide +kernel)
  rw [montP, Nat.mod_mul_mod, Nat.mul_mod, ← Nat.mod_mul_mod, Nat.mod_mod, ← Nat.mul_mod, mul_assoc, Nat.mul_mod,
    ← Nat.mul_mod_mod (invP _), mul_comm (invP _), h, mul_one, Nat.mod_mod]

/-- `mont_n(a, b)` times the radix is a b (00_scope.md R17). -/
theorem montN_mul_radix (a b : Nat) : montN a b * R_MONT % N_ORDER = a * b % N_ORDER := by
  have h : R_MONT % N_ORDER * invN (R_MONT % N_ORDER) % N_ORDER = 1 := mul_invN (by decide +kernel)
  rw [montN, Nat.mod_mul_mod, mul_assoc, Nat.mul_mod, ← Nat.mul_mod_mod (invN _), mul_comm (invN _), h, mul_one,
    Nat.mod_mod]

/-! ### Square roots mod p -/

theorem fsqrtCand_lt (a : Nat) : fsqrtCand a < P_FIELD := powMod_lt P_FIELD_pos _ _

/-- The power (q+1)/4 of a square mod q = 4e - 1 is a root of it, and is itself a square. -/
theorem power_of_square {q e a y : Nat} (hq : q.Prime) (he : 4 * e = q + 1) (h : y * y % q = a % q) :
    (a ^ e % q) * (a ^ e % q) % q = a % q ∧ ∃ z, z * z % q = a ^ e % q := by
  have hc : a ^ e % q = y ^ e * y ^ e % q := by rw [Nat.pow_mod, ← h, ← Nat.pow_mod, Nat.mul_pow]
  refine ⟨?_, _, hc.symm⟩
  rw [hc, ← Nat.mul_mod, ← h, ← pow_add, ← pow_add]
  have hq1 := hq.one_lt
  by_cases hy : y % q = 0
  · rw [Nat.pow_mod, hy, Nat.mul_mod, hy, zero_pow (by omega), Nat.zero_mod]
  · rw [show e + e + (e + e) = (q - 1) + 2 by omega, pow_add, Nat.mul_mod, pow_pred_mod_prime hq hy, one_mul,
      Nat.mod_mod, pow_two]

/-- The candidate of a square is a root of it, and is itself a square (00_scope.md R17). -/
theorem fsqrtCand_of_square {a y : Nat} (h : y * y % P_FIELD = a % P_FIELD) :
    fsqrtCand a * fsqrtCand a % P_FIELD = a % P_FIELD ∧ ∃ z, z * z % P_FIELD = fsqrtCand a := by
  rw [fsqrtCand, powMod_eq]
  exact power_of_square P_FIELD_prime (by decide) h

/-- The candidate squares back exactly when there is a root (00_scope.md R17). -/
theorem isQrRoot_iff (a : Nat) : isQrRoot a = true ↔ ∃ y, y * y % P_FIELD = a % P_FIELD := by
  rw [isQrRoot, decide_eq_true_iff, pow_two]
  exact ⟨fun h => ⟨_, h⟩, fun ⟨y, h⟩ => (fsqrtCand_of_square h).1⟩

end Sys2Proof.Machine
end

