-- ==== Sys2Proof/Laws/CurveOrder.lean ====
section
/-! SUPPORT. The curve has n points: n divides their number because G has order n, the number is at most 2p + 1, and
it is not 2n because no point of the curve has order 2. So n kills every point (00_scope.md R5, R18). -/

namespace Sys2Proof.Machine

open Sys2Proof.Config

/-- x^3 + 7 has no root mod p (43_group.md R122). -/
theorem cube_add_seven_ne_zero (x : Nat) : (x ^ 3 + 7) % P_FIELD ≠ 0 := by
  intro h
  have hx : x % P_FIELD ≠ 0 := by
    intro h0
    rw [Nat.add_mod, Nat.pow_mod, h0] at h
    exact absurd h (by decide +kernel)
  have hcube : x ^ 3 % P_FIELD = P_FIELD - 7 := by
    have h1 := Nat.mod_lt (x ^ 3) P_FIELD_pos
    have h7 : (x ^ 3 % P_FIELD + 7) % P_FIELD = 0 := by rw [Nat.mod_add_mod]; exact h
    generalize x ^ 3 % P_FIELD = c at h1 h7 ⊢
    simp only [P_FIELD] at h1 h7 ⊢
    omega
  have h1 : powMod P_FIELD (P_FIELD - 7) ((P_FIELD - 1) / 3) = 1 := by
    rw [powMod_eq, ← hcube, ← Nat.pow_mod, ← pow_mul, show 3 * ((P_FIELD - 1) / 3) = P_FIELD - 1 by decide +kernel]
    exact pow_pred_mod hx
  exact absurd h1 (by decide +kernel)

section

variable [Fact P_FIELD.Prime]

theorem zmod_cube_add_seven_ne_zero (x : ZMod P_FIELD) : x ^ 3 + 7 ≠ 0 := by
  intro h
  refine cube_add_seven_ne_zero x.val ?_
  have : (((x.val ^ 3 + 7 : Nat)) : ZMod P_FIELD) = ((0 : Nat) : ZMod P_FIELD) := by
    push_cast; rw [ZMod.natCast_zmod_val, h]
  rwa [ZMod.natCast_eq_natCast_iff', Nat.zero_mod] at this

/-- No point of the curve has ordinate 0. -/
theorem ordinate_ne_zero {x y : ZMod P_FIELD} (h : (curve (ZMod P_FIELD)).toAffine.Nonsingular x y) : y ≠ 0 := by
  rintro rfl
  have := (nonsingular_iff _ _).1 h
  exact zmod_cube_add_seven_ne_zero x (by rw [← this]; ring)

/-- A point is determined by its abscissa and the parity of its ordinate. -/
def pointCode : (curve (ZMod P_FIELD)).toAffine.Point → Option (ZMod P_FIELD × Bool)
  | .zero => none
  | .some x y _ => some (x, y.val % 2 == 1)

theorem pointCode_injective : Function.Injective pointCode := by
  intro P Q h
  rcases P with _ | ⟨x, y, hP⟩ <;> rcases Q with _ | ⟨x', y', hQ⟩
  · rfl
  · simp [pointCode] at h
  · simp [pointCode] at h
  · simp only [pointCode, Option.some.injEq, Prod.mk.injEq] at h
    obtain ⟨rfl, hpar⟩ := h
    have e1 := (nonsingular_iff _ _).1 hP
    have e2 := (nonsingular_iff _ _).1 hQ
    have hmul : (y - y') * (y + y') = 0 := by linear_combination e1 - e2
    rcases mul_eq_zero.1 hmul with h0 | h0
    · obtain rfl : y = y' := sub_eq_zero.1 h0
      rfl
    · exfalso
      have hy : y' = -y := by linear_combination h0
      have hy0 : y ≠ 0 := ordinate_ne_zero hP
      have hne : NeZero y := ⟨hy0⟩
      rw [hy, ZMod.val_neg_of_ne_zero] at hpar
      have hlt := y.val_lt
      have hodd : P_FIELD % 2 = 1 := by decide
      rw [Bool.eq_iff_iff, beq_iff_eq, beq_iff_eq] at hpar
      omega

theorem finite_points : Finite (curve (ZMod P_FIELD)).toAffine.Point := Finite.of_injective _ pointCode_injective

theorem card_points_le : Nat.card (curve (ZMod P_FIELD)).toAffine.Point ≤ 2 * P_FIELD + 1 := by
  refine (Nat.card_le_card_of_injective _ pointCode_injective).trans_eq ?_
  rw [Nat.card_eq_fintype_card, Fintype.card_option, Fintype.card_prod, ZMod.card, Fintype.card_bool, mul_comm]

/-- No point of the curve is its own negation, but infinity. -/
theorem add_self_ne_zero {R : (curve (ZMod P_FIELD)).toAffine.Point} (hR : R ≠ 0) : R + R ≠ 0 := by
  rcases R with _ | ⟨x, y, h⟩
  · exact absurd rfl hR
  · intro h0
    have hneg := eq_neg_of_add_eq_zero_left h0
    rw [WeierstrassCurve.Affine.Point.neg_some] at hneg
    simp only [WeierstrassCurve.Affine.Point.some.injEq, true_and, Rep.negY_eq] at hneg
    have : (2 : ZMod P_FIELD) * y = 0 := by linear_combination hneg
    rcases mul_eq_zero.1 this with h2 | h2
    · exact two_ne_zero' h2
    · exact ordinate_ne_zero h h2

theorem card_points : Nat.card (curve (ZMod P_FIELD)).toAffine.Point = N_ORDER := by
  have := finite_points
  obtain ⟨G, hG⟩ := Rep.gen (F := ZMod P_FIELD)
  have hG0 : G ≠ 0 := by
    rintro rfl
    cases hG
  have hnG : N_ORDER • G = 0 := by
    have h := hG.mul N_ORDER
    rw [Point.order_gen] at h
    generalize N_ORDER • G = X at h
    cases h; rfl
  have := N_ORDER_fact
  have hord : addOrderOf G = N_ORDER := addOrderOf_eq_prime hnG hG0
  obtain ⟨c, hc⟩ := hord ▸ addOrderOf_dvd_natCard G
  have hpos : 0 < Nat.card (curve (ZMod P_FIELD)).toAffine.Point := Nat.card_pos
  have hle := card_points_le
  have hc12 : c = 1 ∨ c = 2 := by
    rw [hc] at hpos hle
    have : c < 3 := by
      by_contra hge
      have := Nat.mul_le_mul_left N_ORDER (Nat.le_of_not_lt hge)
      have h3 : 2 * P_FIELD + 1 < N_ORDER * 3 := by decide
      omega
    have : c ≠ 0 := by rintro rfl; simp at hpos
    omega
  rcases hc12 with rfl | rfl
  · rw [hc, mul_one]
  · exfalso
    have h2 : Fact (Nat.Prime 2) := ⟨Nat.prime_two⟩
    obtain ⟨R, hR⟩ := exists_prime_addOrderOf_dvd_card' 2 (Dvd.intro_left _ hc.symm)
    have hR0 : R ≠ 0 := by rintro rfl; simp at hR
    have h2R : (2 : Nat) • R = 0 := hR ▸ addOrderOf_nsmul_eq_zero R
    exact add_self_ne_zero hR0 (by rwa [two_nsmul] at h2R)

/-- n times any point of the curve is infinity. -/
theorem order_nsmul (R : (curve (ZMod P_FIELD)).toAffine.Point) : N_ORDER • R = 0 := by
  have := finite_points
  rw [← card_points]; exact card_nsmul_eq_zero'

end

end Sys2Proof.Machine
end

