-- ==== Sys2Proof/Laws/Effect.lean ====
section
/-! SUPPORT. Said once, what an instruction can do to the state: take a fault, or commit one of a few updates. The
whole-machine claims go through this list instead of the 65 meanings. -/

namespace Sys2Proof.Machine

open Sys2Proof.Config

theorem Signature.bytes_length (sig : Signature) : sig.bytes.length = 65 := by
  simp [Signature.bytes, bytesBE_length]

theorem wnafDigits_length (w : Nat) : ∀ count k, (wnafDigits w count k).length = count
  | 0, _ => rfl
  | count + 1, _ => congrArg (· + 1) (wnafDigits_length w count _)

theorem wnafBytes_length (k w : Nat) : (wnafBytes k w).length = 257 := by
  rw [wnafBytes, List.length_map, wnaf, wnafDigits_length]; rfl

theorem coordinates_eq_ok {Q : Point} {xy : Nat × Nat} (h : coordinates Q = .ok xy) : Q = .aff xy.1 xy.2 := by
  cases Q with
  | inf => cases h
  | aff x y => cases h; rfl

theorem rdF_eq_ok {s : State} {i : RegIdx} {x : FReg} (h : rdF s i = .ok x) : s.F[i].valid = true ∧ x = s.F[i] := by
  rcases rdF_cases s i with ⟨hv, e⟩ | ⟨_, e⟩ <;> rw [e] at h <;> cases h
  exact ⟨hv, rfl⟩

theorem rdS_eq_ok {s : State} {i : RegIdx} {x : Nat} (h : rdS s i = .ok x) : s.S[i].valid = true ∧ x = s.S[i].v := by
  rcases rdS_cases s i with ⟨hv, e⟩ | ⟨_, e⟩ <;> rw [e] at h <;> cases h
  exact ⟨hv, rfl⟩

theorem rdA_eq_ok {s : State} {i : RegIdx} {Q : Point} (h : rdA s i = .ok Q) : s.A[i].valid = true ∧ Q = s.A[i].pt := by
  rcases rdA_cases s i with ⟨hv, e⟩ | ⟨_, e⟩ <;> rw [e] at h <;> cases h
  exact ⟨hv, rfl⟩

theorem rdJ_eq_ok {s : State} {i : RegIdx} {Q : Point} (h : rdJ s i = .ok Q) : s.J[i].valid = true ∧ Q = s.J[i].pt := by
  rcases rdJ_cases s i with ⟨hv, e⟩ | ⟨_, e⟩ <;> rw [e] at h <;> cases h
  exact ⟨hv, rfl⟩

/-- What an instruction can do to the state. -/
inductive Effect (s : State) : Instr → State → Prop
  | fault (i : Instr) (c : Cause) : c ∈ mayRaise i → Effect s i (s.takeFault c)
  | halt : Effect s .halt s.endRun
  | branch (i : Instr) (tgt : Word12) : transfersControl i = true → i ≠ .halt → Effect s i (s.goto tgt)
  | advance (i : Instr) : Effect s i s.advance
  | setk (v : Nat) : Effect s (.setk v) (s.writeK (BitVec.ofNat 12 v)).advance
  | djnzOn (tgt : Word12) : Effect s (.djnz tgt) (s.writeK (s.K - 1)).advance
  | djnzBack (tgt : Word12) : Effect s (.djnz tgt) ((s.writeK (s.K - 1)).goto tgt)
  | field (i : Instr) (d : RegIdx) (v m : Nat) (N : Bool) : destination i = some (.F d) →
      (N = true → writesNormalized i = true ∧ (∀ e slot, i ≠ .fld e slot) ∧ ∀ e a, i = .fmov e a → s.F[a].N = true) →
      Effect s i (s.writeF d v m N).advance
  | fieldFlag (i : Instr) (d : RegIdx) (v m : Nat) (N b : Bool) : destination i = some (.F d) → writesFlag i = true →
      (N = true → writesNormalized i = true ∧ (∀ e slot, i = .fld e slot → s.memRead (slotAddr slot) 32 < P_FIELD) ∧
        ∀ e a, i ≠ .fmov e a) → Effect s i ((s.writeF d v m N).writeC b).advance
  | scalar (i : Instr) (d : RegIdx) (v : Nat) : destination i = some (.S d) → Effect s i (s.writeS d v).advance
  | scalarFlag (i : Instr) (d : RegIdx) (v : Nat) (b : Bool) : destination i = some (.S d) → writesFlag i = true →
      Effect s i ((s.writeS d v).writeC b).advance
  | affine (i : Instr) (d : RegIdx) (Q : Point) : destination i = some (.A d) → Effect s i (s.writeA d Q).advance
  | jacobian (i : Instr) (d : RegIdx) (Q : Point) : destination i = some (.J d) → Effect s i (s.writeJ d Q).advance
  | group (i : Instr) (d : RegIdx) (known : Bool) (Q : Point) : destination i = some (.J d) →
      Effect s i (s.writeGroup d known Q).advance
  | flag (i : Instr) (b : Bool) : writesFlag i = true → Effect s i (s.writeC b).advance
  | store (i : Instr) (lo : Nat) (bs : List Byte) : storedRange i = some (lo, bs.length) → lo + bs.length ≤ 4096 →
      Effect s i (s.writeBytes lo bs).advance
  | sign (slot : Nat) (h d k : RegIdx) (sig : Option Signature) : slot ≤ 125 →
      Effect s (.esign slot h d k) (s.writeSignature slot sig).advance
  | recover (d h : RegIdx) (slot : Nat) (key : Option Point) :
      Effect s (.erecover d h slot) (s.writeRecovered d key).advance
  | context : Effect s .gctx s.buildContext.advance

theorem checkSlot_eq_ok {limit slot : Nat} {u : Unit} (h : checkSlot limit slot = .ok u) : slot ≤ limit := by
  have := raiseIf_eq_ok h
  simpa using this

/-! What each check raises. -/

theorem rdF_eq_error {s : State} {i : RegIdx} {c : Cause} (h : rdF s i = .error c) : c = .uninit := by
  rcases rdF_cases s i with ⟨_, e⟩ | ⟨_, e⟩ <;> rw [e] at h <;> cases h
  rfl

theorem rdS_eq_error {s : State} {i : RegIdx} {c : Cause} (h : rdS s i = .error c) : c = .uninit := by
  rcases rdS_cases s i with ⟨_, e⟩ | ⟨_, e⟩ <;> rw [e] at h <;> cases h
  rfl

theorem rdA_eq_error {s : State} {i : RegIdx} {c : Cause} (h : rdA s i = .error c) : c = .uninit := by
  rcases rdA_cases s i with ⟨_, e⟩ | ⟨_, e⟩ <;> rw [e] at h <;> cases h
  rfl

theorem rdJ_eq_error {s : State} {i : RegIdx} {c : Cause} (h : rdJ s i = .error c) : c = .uninit := by
  rcases rdJ_cases s i with ⟨_, e⟩ | ⟨_, e⟩ <;> rw [e] at h <;> cases h
  rfl

theorem coordinates_eq_error {Q : Point} {c : Cause} (h : coordinates Q = .error c) : c = .infinity := by
  cases Q <;> cases h
  rfl

theorem pure_ne_error {s : State} {c : Cause} (h : (pure s : Except Cause State) = .error c) : False := by cases h

theorem none_not_mem_mayRaise (i : Instr) : Cause.none ∉ mayRaise i := by cases i <;> simp [mayRaise]

/-- Everything an instruction can do. -/
theorem exec_effect {i : Instr} {s t : State} (h : exec i s = .next t) : Effect s i t := by
  cases i
  all_goals
    simp only [exec, execHalt, execJmp, execBt, execBf, execSetk, execDjnz, execNop, execFld, execFst, execSld, execSst,
    execFmov, execSmov, execAmov, execJmov, execFseti, execSseti, execSfromf, execFfroms, execFadd, execFneg,
    execFmul, execFsqr, execFmulm, execFnorm, execFnormv, execFinv, execFsqrt, execFisz, execFisodd, execFeq,
    execFlt, execSadd, execSneg, execSmul, execSmulm, execSinv, execSisz, execSeq, execSlt, execShigh,
    execSwnaf, execPsetxy, execPsetinf, execPldg, execPgetx, execPgety, execPvalid, execPisinf, execPneg,
    execJsetinf, execJfroma, execJtoa, execJisinf, execJneg, execJdbl, execJadda, execJadd, execGctx,
    execPmul, execPmulg, execPmulgq, execEsign, execEverify, execErecover] at h
    rcases settle_cases h with h' | ⟨c, h', rfl⟩
    all_goals clear h
    on_goal 2 =>
      with_reducible repeat' first
        | (rcases bind_eq_error h' with h' | ⟨_, -, h'⟩)
        | (obtain rfl := rdF_eq_error h'; exact .fault _ _ (by simp [mayRaise]))
        | (obtain rfl := rdS_eq_error h'; exact .fault _ _ (by simp [mayRaise]))
        | (obtain rfl := rdA_eq_error h'; exact .fault _ _ (by simp [mayRaise]))
        | (obtain rfl := rdJ_eq_error h'; exact .fault _ _ (by simp [mayRaise]))
        | (obtain rfl := coordinates_eq_error h'; exact .fault _ _ (by simp [mayRaise]))
        | (obtain rfl := (raiseIf_eq_error h').2; exact .fault _ _ (by simp [mayRaise]))
        | exact (pure_ne_error h').elim
        | simp only [checkSlot, checkNormalized, checkMulMagnitude, checkContext, checkBound, checkWidth] at h'
  case fst.inl | sst.inl | swnaf.inl =>
    obtain ⟨_, hs, h'⟩ := bind_eq_ok h'
    have hs := checkSlot_eq_ok hs
    repeat obtain ⟨_, -, h'⟩ := bind_eq_ok h'
    simp only [pure_eq_ok, Except.ok.injEq, State.memWrite] at h'
    subst h'
    refine .store _ _ _ ?_ ?_ <;>
      simp only [storedRange, wnafBytes_length, bytesBE_length, slotAddr, SLOT_BYTES, slotLimit32, slotLimit257] at hs ⊢ <;>
      omega
  case fmov.inl =>
    obtain ⟨x, hx, h'⟩ := bind_eq_ok h'
    obtain ⟨-, rfl⟩ := rdF_eq_ok hx
    cases h'
    exact .field _ _ _ _ _ rfl fun hN => ⟨rfl, nofun, by rintro _ _ ⟨⟩; exact hN⟩
  case esign.inl =>
    obtain ⟨_, hs, h'⟩ := bind_eq_ok h'
    have hs := checkSlot_eq_ok hs
    repeat obtain ⟨_, -, h'⟩ := bind_eq_ok h'
    cases h'
    exact .sign _ _ _ _ _ hs
  all_goals
    repeat obtain ⟨_, -, h'⟩ := bind_eq_ok h'
    simp only [pure_eq_ok, Except.ok.injEq] at h'
    (try split at h') <;> subst h'
  case halt.inl => exact .halt
  all_goals first
    | exact .setk _
    | exact .context
    | exact .djnzOn _
    | exact .djnzBack _
    | exact .advance _
    | exact .branch _ _ rfl (by simp)
    | exact .field _ _ _ _ _ rfl (by simp [writesNormalized])
    | exact .fieldFlag _ _ _ _ _ _ rfl rfl (by simp [writesNormalized, fieldOverflow])
    | exact .scalar _ _ _ rfl
    | exact .scalarFlag _ _ _ _ rfl rfl
    | exact .affine _ _ _ rfl
    | exact .jacobian _ _ _ rfl
    | exact .group _ _ _ _ rfl
    | exact .flag _ _ rfl
    | exact .recover _ _ _ _

end Sys2Proof.Machine
end

