-- ==== Sys2Proof/Laws/Invariant.lean ====
section
/-! SUPPORT. What each update keeps of the data invariant: one lemma an update. -/

namespace Sys2Proof.Machine

open Sys2Proof.Config

namespace DataInv

variable {s : State}

/-- The invariant is about the registers, the memories and the context only. -/
theorem congr {t : State} (h : DataInv s) (hF : t.F = s.F) (hS : t.S = s.S) (hA : t.A = s.A) (hJ : t.J = s.J)
    (hd : t.dmem = s.dmem) (hc : t.cmdmem = s.cmdmem) (hg : t.GCTX = s.GCTX) (ht : t.genTable = s.genTable) :
    DataInv t := by
  obtain ⟨h1, h2, h3, h4, h5, h6, h7⟩ := h
  constructor
  · rw [hF]; exact h1
  · rw [hS]; exact h2
  · rw [hA]; exact h3
  · rw [hJ]; exact h4
  · rw [hd]; exact h5
  · rw [hc]; exact h6
  · rw [hg, ht]; exact h7

theorem writeF (h : DataInv s) (i : RegIdx) {v m : Nat} {N : Bool} (hb : FReg.bounded ⟨v, m, N, true⟩) :
    DataInv (s.writeF i v m N) := by
  refine ⟨fun j hj => ?_, h.scalar, h.affine, h.jacobian, h.dmem, h.cmdmem, h.table⟩
  by_cases e : j = i
  · subst e; rw [State.writeF_same]; exact hb
  · rw [State.writeF_other s i j v m N e] at hj ⊢; exact h.field j hj

theorem writeS (h : DataInv s) (i : RegIdx) {v : Nat} (hb : v < N_ORDER) : DataInv (s.writeS i v) := by
  refine ⟨h.field, fun j hj => ?_, h.affine, h.jacobian, h.dmem, h.cmdmem, h.table⟩
  by_cases e : j = i
  · subst e; rw [State.writeS_same]; exact hb
  · rw [State.writeS_other s i j v e] at hj ⊢; exact h.scalar j hj

theorem writeA (h : DataInv s) (i : RegIdx) {Q : Point} (hb : Q.reduced = true) : DataInv (s.writeA i Q) := by
  refine ⟨h.field, h.scalar, fun j hj => ?_, h.jacobian, h.dmem, h.cmdmem, h.table⟩
  by_cases e : j = i
  · subst e; rw [State.writeA_same]; exact hb
  · rw [State.writeA_other s i j Q e] at hj ⊢; exact h.affine j hj

theorem writeJ (h : DataInv s) (i : RegIdx) {Q : Point} (hb : Q.reduced = true) : DataInv (s.writeJ i Q) := by
  refine ⟨h.field, h.scalar, h.affine, fun j hj => ?_, h.dmem, h.cmdmem, h.table⟩
  by_cases e : j = i
  · subst e; rw [State.writeJ_same]; exact hb
  · rw [State.writeJ_other s i j Q e] at hj ⊢; exact h.jacobian j hj

theorem drawJ (h : DataInv s) (i : RegIdx) : DataInv (s.drawJ i) :=
  (h.writeJ i (drawnPoint_reduced s.draws)).congr rfl rfl rfl rfl rfl rfl rfl rfl

theorem writeGroup (h : DataInv s) (i : RegIdx) (known : Bool) {Q : Point} (hb : Q.reduced = true) :
    DataInv (s.writeGroup i known Q) := by
  cases known
  · exact h.drawJ i
  · exact h.writeJ i hb

theorem writeC (h : DataInv s) (b : Bool) : DataInv (s.writeC b) := h.congr rfl rfl rfl rfl rfl rfl rfl rfl
theorem writeK (h : DataInv s) (k : Word12) : DataInv (s.writeK k) := h.congr rfl rfl rfl rfl rfl rfl rfl rfl
theorem goto (h : DataInv s) (t : Word12) : DataInv (s.goto t) := h.congr rfl rfl rfl rfl rfl rfl rfl rfl
theorem advance (h : DataInv s) : DataInv s.advance := h.goto _
theorem endRun (h : DataInv s) : DataInv s.endRun := h.congr rfl rfl rfl rfl rfl rfl rfl rfl
theorem takeFault (h : DataInv s) (c : Cause) : DataInv (s.takeFault c) := h.congr rfl rfl rfl rfl rfl rfl rfl rfl

theorem writeBytes (h : DataInv s) {lo : Nat} {bs : List Byte} (hfit : lo + bs.length ≤ DMEM_BYTES) :
    DataInv (s.writeBytes lo bs) :=
  ⟨h.field, h.scalar, h.affine, h.jacobian, Memory.write_wf h.dmem lo bs hfit, h.cmdmem, h.table⟩

theorem writeCmd (h : DataInv s) {j : Nat} {w : Word} (hfit : j < CMD_WORDS) : DataInv (s.writeCmd j w) :=
  ⟨h.field, h.scalar, h.affine, h.jacobian, h.dmem, Memory.write_wf h.cmdmem j [w] hfit, h.table⟩

theorem buildContext (h : DataInv s) : DataInv s.buildContext := by
  refine ⟨h.field, h.scalar, h.affine, h.jacobian, h.dmem, h.cmdmem, fun _ => ?_⟩
  rw [State.buildContext_genTable]
  split
  · exact h.table ‹_›
  · rfl

end DataInv

/-! ### Bounds of the values written -/

theorem isValid_iff (Q : Point) : Q.isValid = true ↔ Q ≠ .inf ∧ Q.onCurve = true := by
  rw [Point.isValid, Bool.and_eq_true, decide_eq_true_iff]

/-- The lifted point is on the curve, with reduced coordinates. -/
theorem liftX_spec {x par : Nat} {Q : Point} (hx : x < P_FIELD) (h : liftX x par = some Q) :
    Q.onCurve = true ∧ Q.reduced = true := by
  have hlt := fsqrtCand_lt ((x ^ 3 + CURVE_B) % P_FIELD)
  have h0 : fsqrtCand ((x ^ 3 + CURVE_B) % P_FIELD) ^ 2 % P_FIELD = (x ^ 3 + CURVE_B) % P_FIELD →
      fsqrtCand ((x ^ 3 + CURVE_B) % P_FIELD) ≠ 0 := by
    intro e e0
    rw [e0] at e
    exact cube_add_seven_ne_zero x (e.symm.trans (by decide +kernel))
  revert h
  simp only [liftX, ne_eq, ite_not]
  generalize fsqrtCand ((x ^ 3 + CURVE_B) % P_FIELD) = y at hlt h0 ⊢
  split
  · rename_i hy
    have hy0 := h0 hy
    split
    · rintro ⟨⟩
      simp [Point.onCurve, Point.reduced, hy, hx, hlt]
    · rintro ⟨⟩
      have hsq : (P_FIELD - y) ^ 2 % P_FIELD = y ^ 2 % P_FIELD := by
        have e : (P_FIELD - y) ^ 2 + P_FIELD * (2 * y) = y ^ 2 + P_FIELD * P_FIELD := by
          obtain ⟨z, hz⟩ := Nat.exists_eq_add_of_lt hlt
          rw [show P_FIELD - y = z + 1 by omega, show P_FIELD = y + z + 1 from hz]; ring
        have := congrArg (· % P_FIELD) e
        simpa [Nat.add_mul_mod_self_left] using this
      have hlt' : P_FIELD - y < P_FIELD := by omega
      simp [Point.onCurve, Point.reduced, hsq, hy, hx, hlt']
  · rintro ⟨⟩

end Sys2Proof.Machine
end

