-- ==== Sys2Proof/Laws/PerInstr.lean ====
section
/-! SUPPORT. A statement for all instructions, made one constructor at a time: the word of a well-formed instruction
carries the opcode its row of 30_encoding.md R67 gives it. -/

namespace Sys2Proof.Laws.EncodedOpcode

/-- The op field of the instruction's row (30_encoding.md R67). -/
def rowOpcode (i : Instr) : Option Nat := (opcodeRows.find? fun r => r.name == i.mnemonic).map fun r => opField r.value

/-- The word of the instruction carries the op field of its row. -/
def Statement (i : Instr) : Prop := i.wellFormed = true → rowOpcode i = some (opField (encode i))

theorem halt : Statement (.halt) := fun _ =>
  congrArg some (opField_pack (by decide) (by decide) (by decide) (by decide) (by decide)).symm

theorem jmp (t : Word12) : Statement (.jmp t) := fun _ =>
  congrArg some (opField_pack (by decide) (by decide) (by decide) (by decide) t.isLt).symm

theorem bt (t : Word12) : Statement (.bt t) := fun _ =>
  congrArg some (opField_pack (by decide) (by decide) (by decide) (by decide) t.isLt).symm

theorem bf (t : Word12) : Statement (.bf t) := fun _ =>
  congrArg some (opField_pack (by decide) (by decide) (by decide) (by decide) t.isLt).symm

theorem setk (i : Nat) : Statement (.setk i) := fun h =>
  congrArg some (opField_pack (by decide) (by decide) (by decide) (by decide) (of_decide_eq_true h)).symm

theorem djnz (t : Word12) : Statement (.djnz t) := fun _ =>
  congrArg some (opField_pack (by decide) (by decide) (by decide) (by decide) t.isLt).symm

theorem nop : Statement (.nop) := fun _ =>
  congrArg some (opField_pack (by decide) (by decide) (by decide) (by decide) (by decide)).symm

theorem fld (d : RegIdx) (slot : Nat) : Statement (.fld d slot) := fun h =>
  congrArg some (opField_pack (by decide) d.isLt (by decide) (by decide) (of_decide_eq_true h)).symm

theorem fst (a : RegIdx) (slot : Nat) : Statement (.fst a slot) := fun h =>
  congrArg some (opField_pack (by decide) (by decide) a.isLt (by decide) (of_decide_eq_true h)).symm

theorem sld (d : RegIdx) (slot : Nat) : Statement (.sld d slot) := fun h =>
  congrArg some (opField_pack (by decide) d.isLt (by decide) (by decide) (of_decide_eq_true h)).symm

theorem sst (a : RegIdx) (slot : Nat) : Statement (.sst a slot) := fun h =>
  congrArg some (opField_pack (by decide) (by decide) a.isLt (by decide) (of_decide_eq_true h)).symm

theorem fmov (d a : RegIdx) : Statement (.fmov d a) := fun _ =>
  congrArg some (opField_pack (by decide) d.isLt a.isLt (by decide) (by decide)).symm

theorem smov (d a : RegIdx) : Statement (.smov d a) := fun _ =>
  congrArg some (opField_pack (by decide) d.isLt a.isLt (by decide) (by decide)).symm

theorem fseti (d : RegIdx) (i : Nat) : Statement (.fseti d i) := fun h =>
  congrArg some (opField_pack (by decide) d.isLt (by decide) (by decide) (of_decide_eq_true h)).symm

theorem sseti (d : RegIdx) (i : Nat) : Statement (.sseti d i) := fun h =>
  congrArg some (opField_pack (by decide) d.isLt (by decide) (by decide) (of_decide_eq_true h)).symm

theorem sfromf (d a : RegIdx) : Statement (.sfromf d a) := fun _ =>
  congrArg some (opField_pack (by decide) d.isLt a.isLt (by decide) (by decide)).symm

theorem ffroms (d a : RegIdx) : Statement (.ffroms d a) := fun _ =>
  congrArg some (opField_pack (by decide) d.isLt a.isLt (by decide) (by decide)).symm

theorem amov (d a : RegIdx) : Statement (.amov d a) := fun _ =>
  congrArg some (opField_pack (by decide) d.isLt a.isLt (by decide) (by decide)).symm

theorem jmov (d a : RegIdx) : Statement (.jmov d a) := fun _ =>
  congrArg some (opField_pack (by decide) d.isLt a.isLt (by decide) (by decide)).symm

theorem fadd (d a b : RegIdx) : Statement (.fadd d a b) := fun _ =>
  congrArg some (opField_pack (by decide) d.isLt a.isLt b.isLt (by decide)).symm

theorem fneg (d a : RegIdx) (bound : Nat) : Statement (.fneg d a bound) := fun h =>
  congrArg some (opField_pack (by decide) d.isLt a.isLt (by decide) (of_decide_eq_true h)).symm

theorem fmul (d a b : RegIdx) : Statement (.fmul d a b) := fun _ =>
  congrArg some (opField_pack (by decide) d.isLt a.isLt b.isLt (by decide)).symm

theorem fsqr (d a : RegIdx) : Statement (.fsqr d a) := fun _ =>
  congrArg some (opField_pack (by decide) d.isLt a.isLt (by decide) (by decide)).symm

theorem fmulm (d a b : RegIdx) : Statement (.fmulm d a b) := fun _ =>
  congrArg some (opField_pack (by decide) d.isLt a.isLt b.isLt (by decide)).symm

theorem fnorm (d a : RegIdx) : Statement (.fnorm d a) := fun _ =>
  congrArg some (opField_pack (by decide) d.isLt a.isLt (by decide) (by decide)).symm

theorem fnormv (d a : RegIdx) : Statement (.fnormv d a) := fun _ =>
  congrArg some (opField_pack (by decide) d.isLt a.isLt (by decide) (by decide)).symm

theorem finv (d a : RegIdx) : Statement (.finv d a) := fun _ =>
  congrArg some (opField_pack (by decide) d.isLt a.isLt (by decide) (by decide)).symm

theorem fsqrt (d a : RegIdx) : Statement (.fsqrt d a) := fun _ =>
  congrArg some (opField_pack (by decide) d.isLt a.isLt (by decide) (by decide)).symm

theorem fisz (a : RegIdx) : Statement (.fisz a) := fun _ =>
  congrArg some (opField_pack (by decide) (by decide) a.isLt (by decide) (by decide)).symm

theorem fisodd (a : RegIdx) : Statement (.fisodd a) := fun _ =>
  congrArg some (opField_pack (by decide) (by decide) a.isLt (by decide) (by decide)).symm

theorem feq (a b : RegIdx) : Statement (.feq a b) := fun _ =>
  congrArg some (opField_pack (by decide) (by decide) a.isLt b.isLt (by decide)).symm

theorem flt (a b : RegIdx) : Statement (.flt a b) := fun _ =>
  congrArg some (opField_pack (by decide) (by decide) a.isLt b.isLt (by decide)).symm

theorem sadd (d a b : RegIdx) : Statement (.sadd d a b) := fun _ =>
  congrArg some (opField_pack (by decide) d.isLt a.isLt b.isLt (by decide)).symm

theorem sneg (d a : RegIdx) : Statement (.sneg d a) := fun _ =>
  congrArg some (opField_pack (by decide) d.isLt a.isLt (by decide) (by decide)).symm

theorem smul (d a b : RegIdx) : Statement (.smul d a b) := fun _ =>
  congrArg some (opField_pack (by decide) d.isLt a.isLt b.isLt (by decide)).symm

theorem smulm (d a b : RegIdx) : Statement (.smulm d a b) := fun _ =>
  congrArg some (opField_pack (by decide) d.isLt a.isLt b.isLt (by decide)).symm

theorem sinv (d a : RegIdx) : Statement (.sinv d a) := fun _ =>
  congrArg some (opField_pack (by decide) d.isLt a.isLt (by decide) (by decide)).symm

theorem sisz (a : RegIdx) : Statement (.sisz a) := fun _ =>
  congrArg some (opField_pack (by decide) (by decide) a.isLt (by decide) (by decide)).symm

theorem seq (a b : RegIdx) : Statement (.seq a b) := fun _ =>
  congrArg some (opField_pack (by decide) (by decide) a.isLt b.isLt (by decide)).symm

theorem slt (a b : RegIdx) : Statement (.slt a b) := fun _ =>
  congrArg some (opField_pack (by decide) (by decide) a.isLt b.isLt (by decide)).symm

theorem shigh (a : RegIdx) : Statement (.shigh a) := fun _ =>
  congrArg some (opField_pack (by decide) (by decide) a.isLt (by decide) (by decide)).symm

theorem swnaf (slot : Nat) (a : RegIdx) (w : Nat) : Statement (.swnaf slot a w) := fun h =>
  congrArg some (opField_pack (by decide) (by decide) a.isLt (of_decide_eq_true (Bool.and_eq_true_iff.1 h).2) (of_decide_eq_true (Bool.and_eq_true_iff.1 h).1)).symm

theorem psetxy (d a b : RegIdx) : Statement (.psetxy d a b) := fun _ =>
  congrArg some (opField_pack (by decide) d.isLt a.isLt b.isLt (by decide)).symm

theorem psetinf (d : RegIdx) : Statement (.psetinf d) := fun _ =>
  congrArg some (opField_pack (by decide) d.isLt (by decide) (by decide) (by decide)).symm

theorem pldg (d : RegIdx) : Statement (.pldg d) := fun _ =>
  congrArg some (opField_pack (by decide) d.isLt (by decide) (by decide) (by decide)).symm

theorem pgetx (d a : RegIdx) : Statement (.pgetx d a) := fun _ =>
  congrArg some (opField_pack (by decide) d.isLt a.isLt (by decide) (by decide)).symm

theorem pgety (d a : RegIdx) : Statement (.pgety d a) := fun _ =>
  congrArg some (opField_pack (by decide) d.isLt a.isLt (by decide) (by decide)).symm

theorem pvalid (a : RegIdx) : Statement (.pvalid a) := fun _ =>
  congrArg some (opField_pack (by decide) (by decide) a.isLt (by decide) (by decide)).symm

theorem pisinf (a : RegIdx) : Statement (.pisinf a) := fun _ =>
  congrArg some (opField_pack (by decide) (by decide) a.isLt (by decide) (by decide)).symm

theorem pneg (d a : RegIdx) : Statement (.pneg d a) := fun _ =>
  congrArg some (opField_pack (by decide) d.isLt a.isLt (by decide) (by decide)).symm

theorem jsetinf (d : RegIdx) : Statement (.jsetinf d) := fun _ =>
  congrArg some (opField_pack (by decide) d.isLt (by decide) (by decide) (by decide)).symm

theorem jfroma (d a : RegIdx) : Statement (.jfroma d a) := fun _ =>
  congrArg some (opField_pack (by decide) d.isLt a.isLt (by decide) (by decide)).symm

theorem jtoa (d a : RegIdx) : Statement (.jtoa d a) := fun _ =>
  congrArg some (opField_pack (by decide) d.isLt a.isLt (by decide) (by decide)).symm

theorem jisinf (a : RegIdx) : Statement (.jisinf a) := fun _ =>
  congrArg some (opField_pack (by decide) (by decide) a.isLt (by decide) (by decide)).symm

theorem jneg (d a : RegIdx) : Statement (.jneg d a) := fun _ =>
  congrArg some (opField_pack (by decide) d.isLt a.isLt (by decide) (by decide)).symm

theorem jdbl (d a : RegIdx) : Statement (.jdbl d a) := fun _ =>
  congrArg some (opField_pack (by decide) d.isLt a.isLt (by decide) (by decide)).symm

theorem jadda (d a b : RegIdx) : Statement (.jadda d a b) := fun _ =>
  congrArg some (opField_pack (by decide) d.isLt a.isLt b.isLt (by decide)).symm

theorem jadd (d a b : RegIdx) : Statement (.jadd d a b) := fun _ =>
  congrArg some (opField_pack (by decide) d.isLt a.isLt b.isLt (by decide)).symm

theorem gctx : Statement (.gctx) := fun _ =>
  congrArg some (opField_pack (by decide) (by decide) (by decide) (by decide) (by decide)).symm

theorem pmul (d a b : RegIdx) : Statement (.pmul d a b) := fun _ =>
  congrArg some (opField_pack (by decide) d.isLt a.isLt b.isLt (by decide)).symm

theorem pmulg (d a : RegIdx) : Statement (.pmulg d a) := fun _ =>
  congrArg some (opField_pack (by decide) d.isLt a.isLt (by decide) (by decide)).symm

theorem pmulgq (d a b c : RegIdx) : Statement (.pmulgq d a b c) := fun _ =>
  congrArg some (opField_pack (by decide) d.isLt a.isLt b.isLt (c.isLt.trans (by decide))).symm

theorem esign (slot : Nat) (h d k : RegIdx) : Statement (.esign slot h d k) := fun hw =>
  congrArg some (opField_pack (by decide) h.isLt d.isLt k.isLt (of_decide_eq_true hw)).symm

theorem everify (q h : RegIdx) (slot : Nat) : Statement (.everify q h slot) := fun hw =>
  congrArg some (opField_pack (by decide) (by decide) q.isLt h.isLt (of_decide_eq_true hw)).symm

theorem erecover (d h : RegIdx) (slot : Nat) : Statement (.erecover d h slot) := fun hw =>
  congrArg some (opField_pack (by decide) d.isLt h.isLt (by decide) (of_decide_eq_true hw)).symm

end Sys2Proof.Laws.EncodedOpcode
end

