-- ==== Sys2Proof/Tests/Slice0.lean ====
section
/-! SUPPORT. Tests of the model, with expected results from spec/: the smoke test of WellFormed, words written out field
by field from 30_encoding.md R67, one step for vectors of 95_test_vectors.md (named V-… in the comments), and for every
obligation with hypotheses a witness that meets them. -/

-- One proof at a time: side by side they take more stacks than the check has memory for.
set_option Elab.async false

namespace Sys2Proof.Tests

open Sys2Proof.Machine Sys2Proof.Config

/-! ### Well-formedness -/

theorem test_wf_setk : (Instr.setk 4096).wellFormed = false ∧ (Instr.setk 4095).wellFormed = true := by decide
theorem test_wf_fld : (Instr.fld 0 4096).wellFormed = false ∧ (Instr.fld 0 4095).wellFormed = true := by decide
theorem test_wf_fst : (Instr.fst 0 4096).wellFormed = false ∧ (Instr.fst 0 4095).wellFormed = true := by decide
theorem test_wf_sld : (Instr.sld 0 4096).wellFormed = false ∧ (Instr.sld 0 4095).wellFormed = true := by decide
theorem test_wf_sst : (Instr.sst 0 4096).wellFormed = false ∧ (Instr.sst 0 4095).wellFormed = true := by decide
theorem test_wf_fseti : (Instr.fseti 0 4096).wellFormed = false ∧ (Instr.fseti 0 4095).wellFormed = true := by decide
theorem test_wf_sseti : (Instr.sseti 0 4096).wellFormed = false ∧ (Instr.sseti 0 4095).wellFormed = true := by decide
theorem test_wf_fneg : (Instr.fneg 0 0 4096).wellFormed = false ∧ (Instr.fneg 0 0 4095).wellFormed = true := by decide
theorem test_wf_swnaf_slot : (Instr.swnaf 4096 0 3).wellFormed = false ∧ (Instr.swnaf 4095 0 3).wellFormed = true := by
  decide
theorem test_wf_swnaf_width : (Instr.swnaf 0 0 16).wellFormed = false ∧ (Instr.swnaf 0 0 15).wellFormed = true := by
  decide
theorem test_wf_esign : (Instr.esign 4096 0 1 2).wellFormed = false ∧ (Instr.esign 4095 0 1 2).wellFormed = true := by
  decide
theorem test_wf_everify : (Instr.everify 0 1 4096).wellFormed = false ∧ (Instr.everify 0 1 4095).wellFormed = true := by
  decide
theorem test_wf_erecover :
    (Instr.erecover 0 1 4096).wellFormed = false ∧ (Instr.erecover 0 1 4095).wellFormed = true := by decide

/-! ### Words -/

/-- A word from its fields op[31:24] r1[23:20] r2[19:16] r3[15:12] imm12[11:0] (30_encoding.md R64). -/
def word (op : BitVec 8) (x1 x2 x3 : BitVec 4) (imm : BitVec 12) : Word := op ++ x1 ++ x2 ++ x3 ++ imm

theorem test_decode_control :
    decode (word 0x01 0 0 0 0) = .ok .halt ∧ decode (word 0x02 0 0 0 0xFFF) = .ok (.jmp 0xFFF) ∧
    decode (word 0x03 0 0 0 0x020) = .ok (.bt 0x20) ∧ decode (word 0x04 0 0 0 0x013) = .ok (.bf 0x13) ∧
    decode (word 0x05 0 0 0 0xFFF) = .ok (.setk 4095) ∧ decode (word 0x06 0 0 0 0x010) = .ok (.djnz 0x10) ∧
    decode (word 0x07 0 0 0 0) = .ok .nop := by decide +kernel

theorem test_decode_move :
    decode (word 0x08 1 0 0 127) = .ok (.fld 1 127) ∧ decode (word 0x09 0 3 0 2) = .ok (.fst 3 2) ∧
    decode (word 0x0A 2 0 0 0x0FF) = .ok (.sld 2 255) ∧ decode (word 0x0B 0 3 0 127) = .ok (.sst 3 127) ∧
    decode (word 0x0C 3 2 0 0) = .ok (.fmov 3 2) ∧ decode (word 0x0D 15 2 0 0) = .ok (.smov 15 2) ∧
    decode (word 0x0E 4 0 0 0xFFF) = .ok (.fseti 4 4095) ∧ decode (word 0x0F 4 0 0 8) = .ok (.sseti 4 8) ∧
    decode (word 0x10 1 2 0 0) = .ok (.sfromf 1 2) ∧ decode (word 0x11 1 2 0 0) = .ok (.ffroms 1 2) ∧
    decode (word 0x12 1 2 0 0) = .ok (.amov 1 2) ∧ decode (word 0x13 1 2 0 0) = .ok (.jmov 1 2) := by decide +kernel

theorem test_decode_field :
    decode (word 0x20 1 2 3 0) = .ok (.fadd 1 2 3) ∧ decode (word 0x21 1 2 0 31) = .ok (.fneg 1 2 31) ∧
    decode (word 0x22 1 2 3 0) = .ok (.fmul 1 2 3) ∧ decode (word 0x23 1 2 0 0) = .ok (.fsqr 1 2) ∧
    decode (word 0x24 1 2 3 0) = .ok (.fmulm 1 2 3) ∧ decode (word 0x25 1 2 0 0) = .ok (.fnorm 1 2) ∧
    decode (word 0x26 1 2 0 0) = .ok (.fnormv 1 2) ∧ decode (word 0x27 1 2 0 0) = .ok (.finv 1 2) ∧
    decode (word 0x28 1 2 0 0) = .ok (.fsqrt 1 2) ∧ decode (word 0x29 0 2 0 0) = .ok (.fisz 2) ∧
    decode (word 0x2A 0 2 0 0) = .ok (.fisodd 2) ∧ decode (word 0x2B 0 2 3 0) = .ok (.feq 2 3) ∧
    decode (word 0x2C 0 2 3 0) = .ok (.flt 2 3) := by decide +kernel

theorem test_decode_scalar :
    decode (word 0x30 1 2 3 0) = .ok (.sadd 1 2 3) ∧ decode (word 0x31 1 2 0 0) = .ok (.sneg 1 2) ∧
    decode (word 0x32 1 2 3 0) = .ok (.smul 1 2 3) ∧ decode (word 0x33 1 2 3 0) = .ok (.smulm 1 2 3) ∧
    decode (word 0x34 1 2 0 0) = .ok (.sinv 1 2) ∧ decode (word 0x35 0 2 0 0) = .ok (.sisz 2) ∧
    decode (word 0x36 0 2 3 0) = .ok (.seq 2 3) ∧ decode (word 0x37 0 2 3 0) = .ok (.slt 2 3) ∧
    decode (word 0x38 0 2 0 0) = .ok (.shigh 2) ∧ decode (word 0x39 0 1 5 8) = .ok (.swnaf 8 1 5) := by decide +kernel

theorem test_decode_group :
    decode (word 0x40 1 2 3 0) = .ok (.psetxy 1 2 3) ∧ decode (word 0x41 2 0 0 0) = .ok (.psetinf 2) ∧
    decode (word 0x42 2 0 0 0) = .ok (.pldg 2) ∧ decode (word 0x43 1 2 0 0) = .ok (.pgetx 1 2) ∧
    decode (word 0x44 1 2 0 0) = .ok (.pgety 1 2) ∧ decode (word 0x45 0 2 0 0) = .ok (.pvalid 2) ∧
    decode (word 0x46 0 2 0 0) = .ok (.pisinf 2) ∧ decode (word 0x47 1 2 0 0) = .ok (.pneg 1 2) ∧
    decode (word 0x48 2 0 0 0) = .ok (.jsetinf 2) ∧ decode (word 0x49 1 2 0 0) = .ok (.jfroma 1 2) ∧
    decode (word 0x4A 1 2 0 0) = .ok (.jtoa 1 2) ∧ decode (word 0x4B 0 2 0 0) = .ok (.jisinf 2) ∧
    decode (word 0x4C 1 2 0 0) = .ok (.jneg 1 2) ∧ decode (word 0x4D 1 2 0 0) = .ok (.jdbl 1 2) ∧
    decode (word 0x4E 1 2 3 0) = .ok (.jadda 1 2 3) ∧ decode (word 0x4F 1 2 3 0) = .ok (.jadd 1 2 3) := by
  decide +kernel

theorem test_decode_multiply :
    decode (word 0x60 0 0 0 0) = .ok .gctx ∧ decode (word 0x61 1 2 3 0) = .ok (.pmul 1 2 3) ∧
    decode (word 0x62 1 2 0 0) = .ok (.pmulg 1 2) ∧ decode (word 0x63 1 2 3 4) = .ok (.pmulgq 1 2 3 4) := by
  decide +kernel

theorem test_decode_ecdsa :
    decode (word 0x70 0 1 2 4) = .ok (.esign 4 0 1 2) ∧ decode (word 0x71 0 1 2 4) = .ok (.everify 1 2 4) ∧
    decode (word 0x72 1 2 0 4) = .ok (.erecover 1 2 4) := by decide +kernel

/-- Each kind of word that stands for no instruction (30_encoding.md R69; V-CTL-13 to 15, V-MUL-15). -/
theorem test_decode_rejects :
    decode 0x00000000#32 = .error (.unassignedOp 0) ∧ decode 0xFF000000#32 = .error (.unassignedOp 0xFF) ∧
    decode 0x14000000#32 = .error (.unassignedOp 0x14) ∧ decode 0x73000000#32 = .error (.unassignedOp 0x73) ∧
    decode 0x01100000#32 = .error (.nonzeroField 1) ∧ decode 0x63123014#32 = .error (.nonzeroField 0x63) ∧
    decode 0x71100000#32 = .error (.nonzeroField 0x71) ∧ decode 0x72001000#32 = .error (.nonzeroField 0x72) := by
  decide +kernel

/-- The second spellings of 30_encoding.md R71. -/
theorem test_decode_second_spellings :
    decode (word 0x0E 3 0 0 0) = .ok (.fzero 3) ∧ decode (word 0x0E 3 0 0 1) = .ok (.fone 3) ∧
    decode (word 0x0F 3 0 0 0) = .ok (.szero 3) ∧ decode (word 0x0F 3 0 0 1) = .ok (.sone 3) ∧
    decode (word 0x02 0 0 0 7) = .ok (.b 7) := by decide +kernel

/-! ### One step of each instruction -/

/-- A run at pc = 0 with the context built and every register unwritten (95_test_vectors.md, conventions). -/
def ready : State := { State.reset.buildContext with run := .running }

/-- The state after the instruction of this word. -/
def after (s : State) (w : Nat) : Option State :=
  match step (s.withFetchWord 32 w) with
  | .next t => some t
  | .fault _ => none
  | .refused _ => none

/-- The instruction completes without a fault, at the pc given, and `p` holds of the state it leaves. -/
def sees (s : State) (w : Nat) (pc : Word12) (p : State → Bool) : Bool :=
  (after s w).any fun t => decide (t.pc = pc) && !t.FAULT && p t

/-- The instruction faults: the run ends, CAUSE and FAULT_PC are recorded, pc stays 0 (60_exceptions.md R143). -/
def faults (s : State) (w : Nat) (c : Cause) : Bool :=
  (after s w).any fun t => decide (t.run = .idle ∧ t.FAULT = true ∧ t.CAUSE = c ∧ t.FAULT_PC = 0 ∧ t.pc = 0)

/-- `s` with a value in a slot. -/
def slot (s : State) (k v : Nat) : State := s.memWrite (slotAddr k) 32 v

/-- The value in a slot. -/
def slotOf (t : State) (k : Nat) : Nat := t.memRead (slotAddr k) 32

-- Control: V-CTL-1, 2, 3, 4, 5, 6, 7, 8, 9, 10, 12
theorem test_halt : sees ready 0x01000000 0 (fun t => decide (t.run = .idle) && t.DONE) = true := by decide +kernel
theorem test_nop : sees { ready with pc := 4095 } 0x07000000 0 (fun t => decide (t.run = .running)) = true := by
  decide +kernel
theorem test_jmp : sees ready 0x02000FFF 4095 (fun t => !t.C) = true := by decide +kernel
theorem test_bt : sees { ready with C := true } 0x03000020 32 (fun t => t.C) = true := by decide +kernel
theorem test_bt_not_taken : sees ready 0x03000020 1 (fun t => !t.C) = true := by decide +kernel
theorem test_bf : sees ready 0x04000020 32 (fun t => !t.C) = true := by decide +kernel
theorem test_bf_not_taken : sees { ready with C := true } 0x04000020 1 (fun t => t.C) = true := by decide +kernel
theorem test_setk : sees { ready with K := 7 } 0x05000FFF 1 (fun t => decide (t.K = 4095)) = true := by decide +kernel
theorem test_djnz_to_zero : sees { ready with K := 1 } 0x06000010 1 (fun t => decide (t.K = 0)) = true := by
  decide +kernel
theorem test_djnz_wraps : sees ready 0x06000010 16 (fun t => decide (t.K = 4095)) = true := by decide +kernel
theorem test_illegal : faults ready 0x01100000 .illegal = true := by decide +kernel

-- Loads, stores, moves, constants: V-MOV-1, 2, 5, 6, 8, 9, 11 to 21; slot 128 is over the limit of R54
theorem test_fld_overflow :
    sees (slot ready 0 P_FIELD) 0x08000000 1 (fun t => decide (t.F[0] = ⟨P_FIELD, 1, false, true⟩) && t.C) = true := by
  decide +kernel
theorem test_fld : sees (slot ready 0 (P_FIELD - 1)) 0x08000000 1
    (fun t => decide (t.F[0] = ⟨P_FIELD - 1, 1, true, true⟩) && !t.C) = true := by decide +kernel
theorem test_sld_overflow :
    sees (slot ready 1 N_ORDER) 0x0A000001 1 (fun t => decide (t.S[0] = ⟨0, true⟩) && t.C) = true := by decide +kernel
theorem test_sld : sees (slot ready 1 (N_ORDER - 1)) 0x0A000001 1
    (fun t => decide (t.S[0] = ⟨N_ORDER - 1, true⟩) && !t.C) = true := by decide +kernel
theorem test_fst : sees (ready.writeF 1 0xABC 1 true) 0x09010002 1
    (fun t => decide (t.readByte 64 = 0 ∧ t.readByte 93 = 0 ∧ t.readByte 94 = 0x0A ∧ t.readByte 95 = 0xBC)) = true := by
  decide +kernel
theorem test_fst_not_normalized : faults (ready.writeF 1 (P_FIELD + 4) 2 false) 0x09010002 .notNormalized = true := by
  decide +kernel
theorem test_sst : sees (ready.writeS 3 (N_ORDER - 1)) 0x0B03007F 1
    (fun t => decide (slotOf t 127 = N_ORDER - 1 ∧ t.readByte 4064 = 0xFF ∧ t.readByte 4095 = 0x40)) = true := by
  decide +kernel
theorem test_slot_limit : faults ready 0x0B000080 .addr = true := by decide +kernel
theorem test_fmov : sees (ready.writeF 2 (P_FIELD + 4) 2 false) 0x0C320000 1
    (fun t => decide (t.F[3] = ⟨P_FIELD + 4, 2, false, true⟩)) = true := by decide +kernel
theorem test_smov : sees (ready.writeS 2 5) 0x0D320000 1 (fun t => decide (t.S[3] = ⟨5, true⟩)) = true := by
  decide +kernel
theorem test_fseti : sees ready 0x0E400FFF 1 (fun t => decide (t.F[4] = ⟨0xFFF, 1, true, true⟩)) = true := by
  decide +kernel
theorem test_sseti : sees ready 0x0F400000 1 (fun t => decide (t.S[4] = ⟨0, true⟩)) = true := by decide +kernel
theorem test_sfromf : sees (ready.writeF 0 (P_FIELD - 1) 1 true) 0x10000000 1
    (fun t => decide (t.S[0] = ⟨0x14551231950B75FC4402DA1722FC9BAED, true⟩) && t.C) = true := by decide +kernel
theorem test_sfromf_not_normalized : faults (ready.writeF 0 3 2 false) 0x10000000 .notNormalized = true := by
  decide +kernel
theorem test_ffroms : sees (ready.writeS 0 (N_ORDER - 1)) 0x11000000 1
    (fun t => decide (t.F[0] = ⟨N_ORDER - 1, 1, true, true⟩)) = true := by decide +kernel
theorem test_amov : sees (ready.writeA 0 .inf) 0x12100000 1 (fun t => decide (t.A[1] = ⟨.inf, true⟩)) = true := by
  decide +kernel
theorem test_jmov : sees (ready.writeJ 0 (.aff GX GY)) 0x13100000 1
    (fun t => decide (t.J[1] = ⟨.aff GX GY, true⟩)) = true := by decide +kernel

-- Field: V-FLD-1 to 25
theorem test_fadd : sees ((ready.writeF 0 (P_FIELD - 1) 16 false).writeF 1 1 16 false) 0x20201000 1
    (fun t => decide (t.F[2] = ⟨P_FIELD, 32, false, true⟩)) = true := by decide +kernel
theorem test_fadd_magnitude : faults ((ready.writeF 0 1 17 false).writeF 1 1 16 false) 0x20201000 .magnitude = true := by
  decide +kernel
theorem test_fneg : sees (ready.writeF 0 5 1 true) 0x21100001 1 (fun t => decide (t.F[1] =
    ⟨0x1FFFFFFFFFFFFFFFFFFFFFFFFFFFFFFFFFFFFFFFFFFFFFFFFFFFFFFFDFFFFF859, 2, false, true⟩)) = true := by decide +kernel
theorem test_fneg_operand : faults ready 0x21100000 .operand = true := by decide +kernel
theorem test_fmul : sees ((ready.writeF 0 (P_FIELD - 1) 1 true).writeF 1 (P_FIELD - 1) 1 true) 0x22201000 1
    (fun t => decide (t.F[2] = ⟨1, 1, false, true⟩)) = true := by decide +kernel
theorem test_fmul_magnitude : faults ((ready.writeF 0 2 9 false).writeF 1 1 1 true) 0x22201000 .magnitude = true := by
  decide +kernel
theorem test_fsqr : sees (ready.writeF 0 (P_FIELD - 1) 1 true) 0x23100000 1
    (fun t => decide (t.F[1] = ⟨1, 1, false, true⟩)) = true := by decide +kernel
theorem test_fmulm : sees ((ready.writeF 0 1 1 true).writeF 1 1 1 true) 0x24201000 1 (fun t => decide (t.F[2] =
    ⟨0xC9BD1905155383999C46C2C295F2B761BCB223FEDC24A059D838091D0868192A, 1, false, true⟩)) = true := by decide +kernel
theorem test_fmulm_radix : sees ((ready.writeF 0 2 1 true).writeF 1 0x1000003D1 1 true) 0x24201000 1
    (fun t => decide (t.F[2] = ⟨2, 1, false, true⟩)) = true := by decide +kernel
theorem test_fnorm : sees (ready.writeF 0 (2 ^ 256 - 1) 1 false) 0x25100000 1
    (fun t => decide (t.F[1] = ⟨0x1000003D0, 1, true, true⟩)) = true := by decide +kernel
theorem test_fnormv : sees (ready.writeF 0 (P_FIELD + 1) 2 false) 0x26100000 1
    (fun t => decide (t.F[1] = ⟨1, 1, true, true⟩)) = true := by decide +kernel
theorem test_finv : sees (ready.writeF 0 2 1 true) 0x27100000 1 (fun t => decide (t.F[1] =
    ⟨0x7FFFFFFFFFFFFFFFFFFFFFFFFFFFFFFFFFFFFFFFFFFFFFFFFFFFFFFF7FFFFE18, 1, false, true⟩)) = true := by decide +kernel
theorem test_finv_zero : faults (ready.writeF 0 P_FIELD 2 false) 0x27100000 .invZero = true := by decide +kernel
theorem test_fsqrt : sees (ready.writeF 0 4 1 true) 0x28100000 1
    (fun t => decide (t.F[1] = ⟨2, 1, false, true⟩) && t.C) = true := by decide +kernel
theorem test_fsqrt_no_root : sees ((ready.writeF 0 7 1 true).writeF 1 9 1 true) 0x28100000 1
    (fun t => decide (t.F[1] = ⟨9, 1, true, true⟩) && !t.C) = true := by decide +kernel
theorem test_fisz : sees (ready.writeF 0 0 1 true) 0x29000000 1 (fun t => t.C) = true := by decide +kernel
theorem test_fisz_not_normalized : faults (ready.writeF 0 P_FIELD 2 false) 0x29000000 .notNormalized = true := by
  decide +kernel
theorem test_fisodd : sees ({ ready with C := true }.writeF 0 (P_FIELD - 1) 1 true) 0x2A000000 1 (fun t => !t.C) = true := by
  decide +kernel
theorem test_feq : sees ((ready.writeF 0 3 1 true).writeF 1 3 1 true) 0x2B001000 1 (fun t => t.C) = true := by
  decide +kernel
theorem test_flt : sees ((ready.writeF 0 3 1 true).writeF 1 4 1 true) 0x2C001000 1 (fun t => t.C) = true := by
  decide +kernel
theorem test_flt_equal : sees ({ (ready.writeF 0 4 1 true).writeF 1 4 1 true with C := true }) 0x2C001000 1
    (fun t => !t.C) = true := by decide +kernel

-- Scalar: V-SCL-1, 3, 4, 5, 7, 9, 11 to 18, 21 to 23
theorem test_sadd : sees ((ready.writeS 0 (N_ORDER - 1)).writeS 1 (N_ORDER - 1)) 0x30201000 1
    (fun t => decide (t.S[2] = ⟨N_ORDER - 2, true⟩)) = true := by decide +kernel
theorem test_sneg_zero : sees (ready.writeS 0 0) 0x31100000 1 (fun t => decide (t.S[1] = ⟨0, true⟩)) = true := by
  decide +kernel
theorem test_sneg : sees (ready.writeS 0 1) 0x31100000 1 (fun t => decide (t.S[1] = ⟨N_ORDER - 1, true⟩)) = true := by
  decide +kernel
theorem test_smul : sees ((ready.writeS 0 (2 ^ 128)).writeS 1 (2 ^ 128)) 0x32201000 1
    (fun t => decide (t.S[2] = ⟨0x14551231950B75FC4402DA1732FC9BEBF, true⟩)) = true := by decide +kernel
theorem test_smulm : sees ((ready.writeS 0 1).writeS 1 1) 0x33201000 1 (fun t => decide (t.S[2] =
    ⟨0xD9E8890D6494EF93897F30C127CFAB5D3BBBD4567FA50C3C80FD22938097C016, true⟩)) = true := by decide +kernel
theorem test_sinv : sees (ready.writeS 0 2) 0x34100000 1 (fun t => decide (t.S[1] =
    ⟨0x7FFFFFFFFFFFFFFFFFFFFFFFFFFFFFFF5D576E7357A4501DDFE92F46681B20A1, true⟩)) = true := by decide +kernel
theorem test_sinv_zero : faults (ready.writeS 0 0) 0x34100000 .invZero = true := by decide +kernel
theorem test_sisz : sees (ready.writeS 3 0) 0x35030000 1 (fun t => t.C) = true := by decide +kernel
theorem test_seq : sees ((ready.writeS 0 7).writeS 1 7) 0x36001000 1 (fun t => t.C) = true := by decide +kernel
theorem test_slt : sees ((ready.writeS 0 6).writeS 1 7) 0x37001000 1 (fun t => t.C) = true := by decide +kernel
theorem test_shigh_low :
    sees ({ ready with C := true }.writeS 0 ((N_ORDER - 1) / 2)) 0x38000000 1 (fun t => !t.C) = true := by decide +kernel
theorem test_shigh : sees (ready.writeS 0 ((N_ORDER + 1) / 2)) 0x38000000 1 (fun t => t.C) = true := by decide +kernel
theorem test_swnaf : sees (ready.writeS 1 7) 0x39013008 1 (fun t =>
    (List.range 257).all fun i => decide (t.readByte (256 + i) = if i = 0 then 0xFF else if i = 3 then 1 else 0)) = true := by
  decide +kernel
theorem test_swnaf_width : faults (ready.writeS 1 1) 0x39019000 .operand = true := by decide +kernel

/-! Named points of 95_test_vectors.md. -/

/-- 2G. -/
def G2 : Point := .aff 0xC6047F9441ED7D6D3045406E95C07CD85C778E4B8CEF3CA7ABAC09B95C709EE5
  0x1AE168FEA63DC339A3C58419466CEAEEF7F632653266D0E1236431A950CFE52A

/-- 3G. -/
def G3 : Point := .aff 0xF9308A019258C31049344F85F89D5229B531C845836F99B08601F113BCE036F9
  0x388F7B0F632DE8140FE337E62A37F3566500A99934C2231B6CB9FD7584B8E672

/-- -G. -/
def Gneg : Point := .aff GX 0xB7C52588D95C3B9AA25B0403F1EEF75702E84BB7597AABE663B82F6F04EF2777

/-- -2G. -/
def G2neg : Point := .aff 0xC6047F9441ED7D6D3045406E95C07CD85C778E4B8CEF3CA7ABAC09B95C709EE5
  0xE51E970159C23CC65C3A7BE6B99315110809CD9ACD992F1EDC9BCE55AF301705

/-- The off-curve point of the source's "y replaced by y+1". -/
def Goff : Point := .aff GX (GY + 1)

-- Group: V-GRP-2, 4 to 8, 10 to 13, 15, 17 to 20, 22 to 24, 26 to 32, 34
theorem test_psetxy : sees ((ready.writeF 0 (GX + P_FIELD) 2 false).writeF 1 GY 1 true) 0x40001000 1
    (fun t => decide (t.A[0] = ⟨.aff GX GY, true⟩)) = true := by decide +kernel
theorem test_psetinf : sees ready 0x41200000 1 (fun t => decide (t.A[2] = ⟨.inf, true⟩)) = true := by decide +kernel
theorem test_pldg : sees ready 0x42000000 1 (fun t => decide (t.A[0] = ⟨.aff GX GY, true⟩)) = true := by decide +kernel
theorem test_pgetx : sees (ready.writeA 0 (.aff GX GY)) 0x43200000 1
    (fun t => decide (t.F[2] = ⟨GX, 1, true, true⟩)) = true := by decide +kernel
theorem test_pgetx_infinity : faults (ready.writeA 0 .inf) 0x43200000 .infinity = true := by decide +kernel
theorem test_pgety : sees (ready.writeA 0 (.aff GX GY)) 0x44300000 1
    (fun t => decide (t.F[3] = ⟨GY, 1, true, true⟩)) = true := by decide +kernel
theorem test_pgety_infinity : faults (ready.writeA 0 .inf) 0x44300000 .infinity = true := by decide +kernel
theorem test_pvalid : sees (ready.writeA 0 (.aff GX GY)) 0x45000000 1 (fun t => t.C) = true := by decide +kernel
theorem test_pvalid_off_curve :
    sees ({ ready with C := true }.writeA 0 Goff) 0x45000000 1 (fun t => !t.C) = true := by decide +kernel
theorem test_pisinf : sees (ready.writeA 2 .inf) 0x46020000 1 (fun t => t.C) = true := by decide +kernel
theorem test_pneg : sees (ready.writeA 0 Goff) 0x47100000 1 (fun t => decide (t.A[1] =
    ⟨.aff GX 0xB7C52588D95C3B9AA25B0403F1EEF75702E84BB7597AABE663B82F6F04EF2776, true⟩)) = true := by decide +kernel
theorem test_jsetinf : sees ready 0x48000000 1 (fun t => decide (t.J[0] = ⟨.inf, true⟩)) = true := by decide +kernel
theorem test_jfroma : sees (ready.writeA 0 (.aff GX GY)) 0x49100000 1
    (fun t => decide (t.J[1] = ⟨.aff GX GY, true⟩)) = true := by decide +kernel
theorem test_jtoa : sees (ready.writeJ 0 G2) 0x4A100000 1 (fun t => decide (t.A[1] = ⟨G2, true⟩)) = true := by
  decide +kernel
theorem test_jisinf : sees (ready.writeJ 0 .inf) 0x4B000000 1 (fun t => t.C) = true := by decide +kernel
theorem test_jneg : sees (ready.writeJ 1 (.aff GX GY)) 0x4C210000 1 (fun t => decide (t.J[2] = ⟨Gneg, true⟩)) = true := by
  decide +kernel
theorem test_jdbl : sees (ready.writeJ 1 (.aff GX GY)) 0x4D010000 1 (fun t => decide (t.J[0] = ⟨G2, true⟩)) = true := by
  decide +kernel
theorem test_jdbl_off_curve : sees (ready.writeJ 1 Goff) 0x4D010000 1
    (fun t => t.J[0].valid && decide (t.draws = 1)) = true := by decide +kernel
theorem test_jadda : sees ((ready.writeJ 0 G2).writeA 0 (.aff GX GY)) 0x4E100000 1
    (fun t => decide (t.J[1] = ⟨G3, true⟩)) = true := by decide +kernel
theorem test_jadda_doubles : sees ((ready.writeJ 0 (.aff GX GY)).writeA 0 (.aff GX GY)) 0x4E100000 1
    (fun t => decide (t.J[1] = ⟨G2, true⟩)) = true := by decide +kernel
theorem test_jadd : sees ((ready.writeJ 1 (.aff GX GY)).writeJ 2 G2) 0x4F312000 1
    (fun t => decide (t.J[3] = ⟨G3, true⟩)) = true := by decide +kernel
theorem test_jadd_cancels : sees ((ready.writeJ 1 (.aff GX GY)).writeJ 2 Gneg) 0x4F312000 1
    (fun t => decide (t.J[3] = ⟨.inf, true⟩)) = true := by decide +kernel

-- Multiply: V-MUL-1, 2, 5, 7, 9, 11, 12
theorem test_gctx : sees { ready with GCTX := false } 0x60000000 1 (fun t => t.GCTX) = true := by decide +kernel
theorem test_pmul : sees ((ready.writeS 0 3).writeA 0 (.aff GX GY)) 0x61000000 1
    (fun t => decide (t.J[0] = ⟨G3, true⟩)) = true := by decide +kernel
theorem test_pmul_negates : sees ((ready.writeS 0 (N_ORDER - 1)).writeA 0 G2) 0x61000000 1
    (fun t => decide (t.J[0] = ⟨G2neg, true⟩)) = true := by decide +kernel
theorem test_pmulg : sees (ready.writeS 0 (N_ORDER - 1)) 0x62100000 1
    (fun t => decide (t.J[1] = ⟨Gneg, true⟩)) = true := by decide +kernel
theorem test_pmulg_no_context : faults ({ ready with GCTX := false }.writeS 0 1) 0x62100000 .noContext = true := by
  decide +kernel
theorem test_pmulgq : sees (((ready.writeS 2 1).writeS 3 1).writeA 4 (.aff GX GY)) 0x63123004 1
    (fun t => decide (t.J[1] = ⟨G2, true⟩)) = true := by decide +kernel
theorem test_pmulgq_cancels : sees (((ready.writeS 2 1).writeS 3 (N_ORDER - 1)).writeA 4 (.aff GX GY)) 0x63123004 1
    (fun t => decide (t.J[1] = ⟨.inf, true⟩)) = true := by decide +kernel

-- ECDSA: V-ECD-4, 5, 12, 14, 26, 28
/-- A signature in slots 4 to 6. -/
def signed (s : State) (r sv rid : Nat) : State := ((slot s 4 r).memWrite 160 32 sv).memWrite 192 1 rid

theorem test_esign : sees (((ready.writeS 0 0xDEADBEEF).writeS 1 0x1234).writeS 2 0x5678) 0x70012004 1 (fun t => t.C &&
    decide (slotOf t 4 = 0x36298306E869232F364A2DAF2000A5B4E990BB249182D7B4EBE02065D8CA1A79 ∧
      slotOf t 5 = 0x593365FD4BF968F516F11FD4CBB28492C6FC15703130D6FE7C15E656BF6C0A09 ∧
      t.readByte 192 = 1)) = true := by decide +kernel
theorem test_esign_retry : sees ((({ ready with C := true }.writeS 0 0).writeS 1 1).writeS 2 0) 0x70012004 1
    (fun t => !t.C && decide (t.dmem = [])) = true := by decide +kernel
theorem test_everify : sees ((signed ready GX GX 0 |>.writeA 1 (.aff GX GY)).writeS 0 0) 0x71010004 1
    (fun t => t.C) = true := by decide +kernel
theorem test_everify_flipped : sees (({ signed ready GX GX 0 with C := true }.writeA 1 (.aff GX GY)).writeS 0 1)
    0x71010004 1 (fun t => !t.C) = true := by decide +kernel
theorem test_erecover : sees ((signed ready GX 0xC8333020C4688A754BF3AD462F1E9F0B576E33053AC4E890BED5BD6A2461211 1).writeS 0 0)
    0x72200004 1 (fun t => t.C && decide (t.A[2] = ⟨G2, true⟩)) = true := by decide +kernel
theorem test_erecover_fails : sees ({ signed ready GX GX 2 with C := true }.writeS 0 0) 0x72200004 1
    (fun t => !t.C && !t.A[2].valid) = true := by decide +kernel

/-! ### The host: V-HST-2 to 13 -/

/-- The state after one host access. -/
def served (s : State) (op : BusOp) (off : BitVec 17) : Option State :=
  match step { s with inputs := [.host ⟨op, 4, off⟩] } with
  | .next t => some t
  | .fault _ => none
  | .refused _ => none

/-- No run: the state of `ready` before START. -/
def idle : State := { ready with run := .idle }

theorem test_host_status : (served State.reset .read 0x008).any (fun t => decide (t.response = ⟨0, false⟩)) = true := by
  decide +kernel
theorem test_host_writes_dmem : (served idle (.write 0x02000000) 0x101C).any (fun t => decide
    (t.readByte 28 = 0 ∧ t.readByte 29 = 0 ∧ t.readByte 30 = 0 ∧ t.readByte 31 = 2)) = true := by decide +kernel
theorem test_host_reads_dmem : (served (idle.writeBytes 0 [0x79, 0xBE, 0x66, 0x7E]) .read 0x1000).any
    (fun t => decide (t.response = ⟨0x7E66BE79, false⟩)) = true := by decide +kernel
theorem test_host_writes_cmdmem : (served idle (.write 0x01000000) 0x10000).any
    (fun t => decide (decode (t.readCmd 0) = .ok .halt)) = true := by decide +kernel
theorem test_host_misaligned : (served idle (.write 1) 0x1001).any
    (fun t => decide (t.response = ⟨0, true⟩ ∧ t.dmem = [])) = true := by decide +kernel
theorem test_host_start_and_irq : (served { idle with C := true } (.write 3) 0x004).any (fun t =>
    sees t 0x01000000 0 fun u => decide (u.statusWord = 0x9A ∧ u.CAUSE = .none) && u.irq) = true := by decide +kernel
theorem test_host_clears_done : (served { idle with C := true, DONE := true, IRQ_EN := true } (.write 2) 0x008).any
    (fun t => decide (t.statusWord = 0x18) && !t.irq) = true := by decide +kernel
theorem test_host_start_while_busy : (served ready (.write 1) 0x004).any
    (fun t => t.CMDERR && decide (t.run = .running)) = true := by decide +kernel
theorem test_host_dmem_while_busy : (served ready .read 0x1000).any
    (fun t => t.ACCERR && decide (t.response = ⟨0, false⟩)) = true := by decide +kernel
theorem test_host_soft_reset : (served ({ ready with ENTRY := 9 }.writeS 0 1) (.write 5) 0x004).any
    (fun t => decide (t.run = .idle ∧ t.ENTRY = 9 ∧ t.statusWord = 0) && !t.S[0].valid) = true := by decide +kernel
theorem test_host_fault_registers : (served (idle.takeFault .notNormalized) .read 0x014).any
    (fun t => decide (t.response = ⟨5, false⟩ ∧ t.statusWord = 0x14)) = true := by decide +kernel
theorem test_idle_engine_waits : step idle = .next idle := rfl

/-! ### Witnesses: states and operands that meet the hypotheses of the obligations -/

/-- The instruction's next state, when `p` holds of it. -/
def runs (i : Instr) (s : State) (p : State → Bool) : Bool :=
  match exec i s with
  | .next t => p t
  | .fault _ => false
  | .refused _ => false

theorem exists_of_runs {i : Instr} {s : State} {p : State → Bool} (h : runs i s p = true) :
    ∃ t, exec i s = .next t ∧ p t = true := by
  unfold runs at h
  split at h
  · exact ⟨_, ‹_›, h⟩
  · cases h
  · cases h

/-- The next state of the machine, when `p` holds of it. -/
def steps (s : State) (p : State → Bool) : Bool :=
  match step s with
  | .next t => p t
  | .fault _ => false
  | .refused _ => false

theorem exists_of_steps {s : State} {p : State → Bool} (h : steps s p = true) : ∃ t, step s = .next t ∧ p t = true := by
  unfold steps at h
  split at h
  · exact ⟨_, ‹_›, h⟩
  · cases h
  · cases h

/-- `ready` with registers written: F0 = 5, F1 = 3, F2 = p + 4, F3 = 0, magnitudes 16, 16, 31, 8, 9 in F4 to F8;
S0 = 0, S1 = 1, S2 = n - 1, S3 = 2; A0 = J0 = G, A1 = J1 = infinity, A2 = J2 off the curve. -/
def rich : State :=
  let s := (((ready.writeF 0 5 1 true).writeF 1 3 1 true).writeF 2 (P_FIELD + 4) 2 false).writeF 3 0 1 true
  let s := ((((s.writeF 4 1 16 false).writeF 5 1 16 false).writeF 6 1 31 false).writeF 7 2 8 false).writeF 8 2 9 false
  let s := (((s.writeS 0 0).writeS 1 1).writeS 2 (N_ORDER - 1)).writeS 3 2
  let s := ((s.writeA 0 (.aff GX GY)).writeA 1 .inf).writeA 2 Goff
  ((s.writeJ 0 (.aff GX GY)).writeJ 1 .inf).writeJ 2 Goff

theorem ready_inv : DataInv ready := by
  refine ⟨fun i h => ?_, fun i h => ?_, fun i h => ?_, fun i h => ?_, rfl, rfl, fun _ => rfl⟩ <;>
    simp [ready, State.reset, State.buildContext, FReg.unwritten, SReg.unwritten, PReg.unwritten] at h

/-- A written field register in its bounds (10_state.md R24). -/
theorem bounded_of {v m : Nat} {N : Bool} (h : (decide (1 ≤ m ∧ m ≤ 32 ∧ v < m * 2 ^ 256) &&
    (!N || decide (v < P_FIELD ∧ m = 1))) = true) : FReg.bounded ⟨v, m, N, true⟩ := by
  simp only [Bool.and_eq_true, decide_eq_true_iff, Bool.or_eq_true, Bool.not_eq_true'] at h
  refine ⟨h.1.1, h.1.2.1, h.1.2.2, fun hN => ?_⟩
  rcases h.2 with h | h
  · exact absurd (hN.symm.trans h) nofun
  · exact h

theorem rich_inv : DataInv rich := by
  refine DataInv.writeJ (DataInv.writeJ (DataInv.writeJ (DataInv.writeA (DataInv.writeA (DataInv.writeA ?_ 0 ?_) 1 ?_)
    2 ?_) 0 ?_) 1 ?_) 2 ?_
  refine DataInv.writeS (DataInv.writeS (DataInv.writeS (DataInv.writeS ?_ 0 ?_) 1 ?_) 2 ?_) 3 ?_
  refine DataInv.writeF (DataInv.writeF (DataInv.writeF (DataInv.writeF (DataInv.writeF ?_ 4 ?_) 5 ?_) 6 ?_) 7 ?_) 8 ?_
  refine DataInv.writeF (DataInv.writeF (DataInv.writeF (DataInv.writeF ready_inv 0 ?_) 1 ?_) 2 ?_) 3 ?_
  all_goals first
    | exact bounded_of (by decide +kernel)
    | decide +kernel

/-- A word placed for the next step keeps the invariant. -/
theorem placed_inv {s : State} (h : DataInv s) (w : Nat) : DataInv (s.withFetchWord 32 w) :=
  (h.writeCmd (j := s.pc.toNat) (w := tableWord 32 w) s.pc.isLt).congr rfl rfl rfl rfl rfl rfl rfl rfl

theorem idle_inv : DataInv idle := ready_inv.congr rfl rfl rfl rfl rfl rfl rfl rfl

theorem signed_inv {s : State} (h : DataInv s) (r sv rid : Nat) : DataInv (signed s r sv rid) := by
  refine ((h.writeBytes ?_).writeBytes ?_).writeBytes ?_ <;> rw [bytesBE_length] <;> decide

/-! Encoding and the step. -/

theorem witness_EveryInstructionDecodesFromItsWord :
    (Instr.swnaf 4095 15 15).wellFormed = true ∧ (Instr.fneg 0 15 0).wellFormed = true := by decide

theorem witness_EveryDecodedWordIsItsEncoding :
    decode 0x390FFFFF#32 = .ok (.swnaf 4095 15 15) ∧ decode 0x63FFF00F#32 = .ok (.pmulgq 15 15 15 15) := by decide +kernel

theorem witness_RowsSelectTheDecodedInstruction :
    ∃ r ∈ opcodeRows, r.selectedBy 0x39FFFFFF#32 = false ∧ r.selectedBy 0x390FFFFF#32 = true :=
  ⟨⟨"SWNAF", 0x39000000#32, 0xFFF00000#32⟩, by decide +kernel, by decide +kernel⟩

theorem witness_WordsNoRowMatchesFaultIllegal :
    (∀ w ∈ [0, 0x01100000, 0xFFFFFFFF], ∀ r ∈ opcodeRows, r.selectedBy (ready.withFetchWord 32 w).fetch = false) ∧
    (∃ r ∈ opcodeRows, r.selectedBy (ready.withFetchWord 32 0x07000000).fetch = true) ∧
    (∀ w, engineMovesNext (ready.withFetchWord 32 w) ∧ (ready.withFetchWord 32 w).run = .running) ∧
    (∀ v ∈ [0x00, 0x14, 0x1F, 0x2D, 0x2F, 0x3A, 0x3F, 0x50, 0x5F, 0x64, 0x6F, 0x73, 0xFF], v ∈ unassignedOps) ∧
    (∀ w ∈ [0x01000000, 0x13000001, 0x20000000, 0x39000000, 0x4F000000, 0x60000000, 0x72000000],
      opField (BitVec.ofNat 32 w) ∉ unassignedOps) :=
  ⟨by decide +kernel, ⟨⟨"NOP", 0x07000000#32, 0xFFFFFFFF#32⟩, by decide +kernel, by decide +kernel⟩,
    fun _ => ⟨.inl rfl, rfl⟩, by decide +kernel, by decide +kernel⟩

theorem witness_StepRunsTheDecodedInstruction :
    engineMovesNext { ready.withFetchWord 32 0x20123000 with inputs := [.engine] } ∧
    engineMovesNext (ready.withFetchWord 32 0x20123000) ∧ (ready.withFetchWord 32 0x20123000).run = .running ∧
    decode ((ready.withFetchWord 32 0x20123000).readCmd (ready.withFetchWord 32 0x20123000).pc.toNat)
      = .ok (.fadd 1 2 3) :=
  ⟨.inr ⟨[], rfl⟩, .inl rfl, rfl, by decide +kernel⟩

theorem witness_AStepIsOneMoveOfOneAgent :
    idle.run = .idle ∧ engineMovesNext idle ∧
    (idle.withInputs [.host ⟨.read, 4, 0⟩, .engine]).inputs = .host ⟨.read, 4, 0⟩ :: [.engine] ∧
    (ready.withInputs [.hardReset]).inputs = .hardReset :: [] := ⟨rfl, .inl rfl, rfl, rfl⟩

/-! Invariants and whole-machine rules. -/

theorem witness_EveryStepKeepsTheDataInvariant :
    DataInv (rich.withFetchWord 32 0x20101000) ∧ ∃ t, step (rich.withFetchWord 32 0x20101000) = .next t ∧
      t.F[(1 : RegIdx)].v = 8 := by
  refine ⟨placed_inv rich_inv _, ?_⟩
  obtain ⟨t, h, hp⟩ := exists_of_steps (s := rich.withFetchWord 32 0x20101000)
    (p := fun t => decide (t.F[(1 : RegIdx)].v = 8)) (by decide +kernel)
  exact ⟨t, h, by simpa using hp⟩

theorem witness_EveryStepKeepsTheRunInvariant :
    RunInv (ready.withFetchWord 32 0x01000000) ∧ ∃ t, step (ready.withFetchWord 32 0x01000000) = .next t ∧ t.DONE = true :=
  ⟨⟨by decide, fun _ => ⟨rfl, rfl, rfl, rfl⟩, nofun, nofun⟩, exists_of_steps (by decide +kernel)⟩

theorem witness_ResetValues :
    (∃ s : State, rich.softReset = s.hardReset ∨ rich.softReset = s.softReset) ∧
    (∃ s : State, rich.hardReset = s.hardReset ∨ rich.hardReset = s.softReset) := ⟨⟨rich, .inr rfl⟩, ⟨rich, .inl rfl⟩⟩

/-- Each cause, reported, and none at the last operand values that are in range (60_exceptions.md R145, R146). -/
theorem witness_TheFirstFaultInPriorityIsReported :
    (∀ p ∈ [(Instr.fld 0 128, Cause.addr), (.fst 0 128, .addr), (.swnaf 120 1 9, .addr), (.esign 126 0 1 2, .addr),
        (.everify 0 0 127, .addr), (.erecover 0 0 126, .addr), (.fneg 0 15 0, .operand), (.fneg 0 0 32, .operand),
        (.swnaf 119 15 1, .operand), (.swnaf 0 1 9, .operand), (.fadd 0 0 15, .uninit), (.pmul 0 15 0, .uninit),
        (.fisz 2, .notNormalized), (.fadd 0 4 6, .magnitude), (.fneg 0 6 30, .magnitude), (.fmul 0 7 8, .magnitude),
        (.pgetx 0 1, .infinity), (.finv 0 3, .invZero), (.sinv 0 0, .invZero)], firstFault p.1 rich = some p.2) ∧
    firstFault (.pmulg 0 1) { rich with GCTX := false } = some .noContext ∧
    (∀ i ∈ [Instr.fld 0 127, .swnaf 119 1 8, .swnaf 0 1 2, .esign 125 0 1 2, .everify 0 0 126, .erecover 0 0 125,
        .fneg 0 6 31, .fneg 0 0 1, .fadd 0 4 5, .fmul 0 7 7, .halt, .pmulg 0 1], firstFault i rich = none) ∧
    (ready.withFetchWord 32 0).run = .running ∧ engineMovesNext (ready.withFetchWord 32 0) ∧
    decode (ready.withFetchWord 32 0).fetch = .error (.unassignedOp 0) :=
  ⟨by decide +kernel, by decide +kernel, by decide +kernel, rfl, .inl rfl, by decide +kernel⟩

theorem witness_FaultsAreEnteredPrecisely : firstFault (.fst 2 4) rich = some .notNormalized := by decide +kernel

theorem witness_FlagAndCounterHaveListedWriters :
    (∃ t, exec (.fisz 3) rich = .next t ∧ (t.C != rich.C) = true) ∧
    (∃ t, exec (.setk 9) rich = .next t ∧ (t.K != rich.K) = true) ∧
    ∃ t, exec (.djnz 9) rich = .next t ∧ (t.K != rich.K) = true :=
  ⟨exists_of_runs (by decide +kernel), exists_of_runs (by decide +kernel), exists_of_runs (by decide +kernel)⟩

theorem witness_ContextRisesByGctxAndFallsByReset :
    (∃ t, step ({ ready with GCTX := false }.withFetchWord 32 0x60000000) = .next t ∧ t.GCTX = true) ∧
    (∃ t, step { ready with inputs := [.hardReset] } = .next t ∧ (!t.GCTX) = true) ∧
    (∃ t, step { ready with inputs := [.host ⟨.write 4, 4, 0x004⟩] } = .next t ∧ (!t.GCTX) = true) ∧
    ready.GCTX = true ∧ ∃ t, step (ready.withFetchWord 32 0x07000000) = .next t ∧ t.GCTX = true :=
  ⟨exists_of_steps (by decide +kernel), exists_of_steps (by decide +kernel), exists_of_steps (by decide +kernel), rfl,
    exists_of_steps (by decide +kernel)⟩

theorem witness_NormalizedFlagHasListedWriters :
    (∃ t, exec (.fnorm 9 2) rich = .next t ∧ (t.F[(9 : RegIdx)] != rich.F[(9 : RegIdx)] && t.F[(9 : RegIdx)].N) = true) ∧
    (∃ t, exec (.fmov 9 0) rich = .next t ∧ (t.F[(9 : RegIdx)] != rich.F[(9 : RegIdx)] && t.F[(9 : RegIdx)].N) = true) ∧
    ∃ t, exec (.fld 9 3) (slot rich 3 1) = .next t ∧
      (t.F[(9 : RegIdx)] != rich.F[(9 : RegIdx)] && t.F[(9 : RegIdx)].N) = true :=
  ⟨exists_of_runs (by decide +kernel), exists_of_runs (by decide +kernel), exists_of_runs (by decide +kernel)⟩

theorem witness_OnlyTheDestinationRegisterChanges :
    (∃ t, exec (.sadd 4 2 3) rich = .next t ∧ t.S[(4 : RegIdx)].valid = true) ∧
    destination (.sadd 4 2 3) ≠ some (.S 3) ∧ rich.validBit (.S 3) = true :=
  ⟨exists_of_runs (by decide +kernel), by decide, by decide +kernel⟩

theorem witness_OnlyTheStoredBytesChange :
    (∃ t, exec (.sst 1 127) rich = .next t ∧ decide (t.readByte 4095 = 1) = true) ∧
    storedRange (.sst 1 127) = some (4064, 32) ∧ storedRange (.fisz 0) = none ∧ storedRange (.erecover 0 0 4) = none :=
  ⟨exists_of_runs (by decide +kernel), by decide, by decide, by decide⟩

theorem witness_PlainInstructionsAdvance :
    firstFault .nop { ready with pc := 4095 } = none ∧ transfersControl .nop = false ∧
    (∃ t, exec .nop { ready with pc := 4095 } = .next t ∧ decide (t.pc = 0) = true) ∧
    firstFault (.fisz 2) rich ≠ none ∧ ∃ t, exec (.fisz 2) rich = .next t ∧ t.FAULT = true :=
  ⟨by decide +kernel, rfl, exists_of_runs (by decide +kernel), by decide +kernel, exists_of_runs (by decide +kernel)⟩

theorem witness_RunsBeginAndEndAsListed :
    (∀ m ∈ [Move.engine, .hardReset, .host ⟨.write 4, 4, 0x004⟩], ∃ t, step { ready.withFetchWord 32 0 with inputs := [m] }
      = .next t ∧ decide (t.run = .idle) = true) ∧
    (∃ t, step (ready.withFetchWord 32 0x01000000) = .next t ∧ decide (t.run = .idle ∧ t.DONE = true) = true) ∧
    ∃ t, step { idle with inputs := [.host ⟨.write 1, 4, 0x004⟩] } = .next t ∧ decide (t.run = .running) = true := by
  refine ⟨fun m hm => exists_of_steps ?_, exists_of_steps (by decide +kernel), exists_of_steps (by decide +kernel)⟩
  revert m; decide +kernel

theorem witness_UnwrittenMemoryKeepsItsValue :
    (∀ rest, (ready.withFetchWord 32 0x07000000).inputs ≠ .hardReset :: rest) ∧
    ∃ t, step (ready.withFetchWord 32 0x07000000) = .next t ∧
      decide (Memory.get t.dmem 4095 = none ∧ Memory.get t.cmdmem 4095 = none) = true :=
  ⟨nofun, exists_of_steps (by decide +kernel)⟩

/-! Instructions. -/

theorem witness_ControlInstructions : 4095 < 4096 ∧ rich.K.toNat ≠ 1 ∧ { rich with K := 1 }.K.toNat = 1 := by
  decide +kernel

theorem witness_OperandsAreBigEndian : 31 < 32 ∧ (4063 < 4064 ∨ 4064 + 32 ≤ 4063) ∧ (4096 < 4064 ∨ 4064 + 32 ≤ 4096) := by
  decide

theorem witness_LoadsReadASlot : ∃ slot, slot = 127 ∧ slot ≤ 127 := ⟨127, rfl, le_rfl⟩

theorem witness_StoresWriteASlot : DataInv rich ∧ 127 ≤ 127 ∧
    rich.F[(0 : RegIdx)].valid = true ∧ rich.F[(0 : RegIdx)].N = true ∧ rich.S[(2 : RegIdx)].valid = true :=
  ⟨rich_inv, by decide +kernel⟩

theorem witness_MovesAndConstants : rich.F[(2 : RegIdx)].valid = true ∧ rich.S[(2 : RegIdx)].valid = true ∧
    rich.A[(2 : RegIdx)].valid = true ∧ rich.J[(2 : RegIdx)].valid = true ∧
    rich.F[(0 : RegIdx)].valid = true ∧ rich.F[(0 : RegIdx)].N = true := by decide +kernel

/-- The magnitudes 16 + 16, 31 and 8 are the largest the clauses admit. -/
theorem witness_FieldArithmetic : DataInv rich ∧ (∀ a ∈ [4, 5, 6, 7], rich.F[(a : RegIdx)].valid = true) ∧
    rich.F[(4 : RegIdx)].m + rich.F[(5 : RegIdx)].m = 32 ∧ rich.F[(6 : RegIdx)].m = 31 ∧ rich.F[(7 : RegIdx)].m = 8 :=
  ⟨rich_inv, by decide +kernel⟩

theorem witness_FieldMontgomeryProduct : rich.F[(7 : RegIdx)].valid = true ∧ rich.F[(7 : RegIdx)].m ≤ 8 ∧
    rich.F[(0 : RegIdx)].valid = true ∧ rich.F[(0 : RegIdx)].m ≤ 8 := by decide +kernel

theorem witness_FieldInverse : rich.F[(7 : RegIdx)].valid = true ∧ rich.F[(7 : RegIdx)].m ≤ 8 ∧
    rich.F[(7 : RegIdx)].v % P_FIELD ≠ 0 := by decide +kernel

/-- F2 holds p + 4, which has the root 2; F1 holds 3, which has none (the candidate does not square back). -/
theorem witness_FieldSquareRoot :
    (rich.F[(2 : RegIdx)].valid = true ∧ rich.F[(2 : RegIdx)].m ≤ 8 ∧ ∃ y, y * y % P_FIELD = rich.F[(2 : RegIdx)].v % P_FIELD) ∧
    (rich.F[(0 : RegIdx)].valid = true ∧ rich.F[(0 : RegIdx)].m ≤ 8 ∧
      ¬ ∃ y, y * y % P_FIELD = rich.F[(0 : RegIdx)].v % P_FIELD) := by
  refine ⟨⟨by decide +kernel, by decide +kernel, 2, by decide +kernel⟩, by decide +kernel, by decide +kernel, ?_⟩
  rw [← isQrRoot_iff]
  decide +kernel

theorem witness_FieldTests : (∀ a ∈ [0, 1, 3], rich.F[(a : RegIdx)].valid = true ∧ rich.F[(a : RegIdx)].N = true) := by
  decide +kernel

theorem witness_ScalarArithmetic : DataInv rich ∧ (∀ a ∈ [0, 2], rich.S[(a : RegIdx)].valid = true) :=
  ⟨rich_inv, by decide +kernel⟩

theorem witness_ScalarMontgomeryAndInverse : DataInv rich ∧ rich.S[(2 : RegIdx)].valid = true ∧
    rich.S[(1 : RegIdx)].valid = true ∧ rich.S[(2 : RegIdx)].v ≠ 0 := ⟨rich_inv, by decide +kernel⟩

theorem witness_ScalarTests : DataInv rich ∧ rich.S[(1 : RegIdx)].valid = true ∧ rich.S[(2 : RegIdx)].valid = true ∧
    rich.S[(1 : RegIdx)].v ≠ 0 ∧ rich.S[(2 : RegIdx)].v = N_ORDER - rich.S[(1 : RegIdx)].v :=
  ⟨rich_inv, by decide +kernel⟩

theorem witness_SignedDigitsOfAScalar : DataInv rich ∧ 119 ≤ 119 ∧ 2 ≤ 8 ∧ 8 ≤ 8 ∧ rich.S[(2 : RegIdx)].valid = true :=
  ⟨rich_inv, by decide +kernel⟩

theorem witness_AffineConstruction : rich.F[(2 : RegIdx)].valid = true ∧ rich.A[(0 : RegIdx)].valid = true ∧
    rich.A[(0 : RegIdx)].pt = .aff GX GY := by decide +kernel

theorem witness_PointTests : (∀ a ∈ [0, 1, 2], rich.A[(a : RegIdx)].valid = true ∧ rich.J[(a : RegIdx)].valid = true) ∧
    rich.A[(1 : RegIdx)].pt = .inf ∧ rich.A[(2 : RegIdx)].pt = .aff GX (GY + 1) := by decide +kernel

theorem witness_NegationAndConversion :
    (∀ a ∈ [0, 1, 2], rich.A[(a : RegIdx)].valid = true ∧ rich.J[(a : RegIdx)].valid = true) ∧
    rich.A[(1 : RegIdx)].pt = .inf ∧ rich.J[(1 : RegIdx)].pt = .inf ∧ rich.A[(2 : RegIdx)].pt = .aff GX (GY + 1) ∧
    rich.J[(0 : RegIdx)].pt = .aff GX GY := by decide +kernel

theorem witness_GroupInstructionsOnTheCurve :
    (∀ a ∈ [0, 1], rich.J[(a : RegIdx)].valid = true ∧ rich.J[(a : RegIdx)].pt.onCurve = true ∧
      rich.A[(a : RegIdx)].valid = true ∧ rich.A[(a : RegIdx)].pt.onCurve = true) := by decide +kernel

theorem witness_AdditionIsChordAndTangent :
    P_FIELD - 1 < P_FIELD ∧ 0 ≠ P_FIELD - 1 ∧ 0 < 1 ∧ 1 < P_FIELD ∧ GY ≠ GY + 1 := by decide

theorem witness_TheCurveIsAGroup :
    (∀ Q ∈ [Point.aff GX GY, G2, G3, .inf], Q.onCurve = true ∧ Q.reduced = true) := by decide +kernel

theorem witness_OffCurveOperandsGiveAFreePoint :
    rich.J[(2 : RegIdx)].valid = true ∧ rich.J[(2 : RegIdx)].pt.onCurve = false ∧ rich.A[(2 : RegIdx)].valid = true ∧
    rich.A[(2 : RegIdx)].pt.onCurve = false ∧ rich.J[(0 : RegIdx)].valid = true ∧ rich.J[(0 : RegIdx)].pt.onCurve = true ∧
    rich.S[(0 : RegIdx)].valid = true ∧ rich.S[(2 : RegIdx)].valid = true ∧ rich.GCTX = true := by decide +kernel

theorem witness_GctxBuildsTheTableOnce : { rich with GCTX := false }.GCTX = false ∧ rich.GCTX = true := ⟨rfl, rfl⟩

theorem witness_MultipliesAreRepeatedAddition : DataInv rich ∧ rich.S[(0 : RegIdx)].valid = true ∧
    rich.S[(2 : RegIdx)].valid = true ∧ rich.GCTX = true ∧
    (∀ c ∈ [0, 1], rich.A[(c : RegIdx)].valid = true ∧ rich.A[(c : RegIdx)].pt.onCurve = true) :=
  ⟨rich_inv, by decide +kernel⟩

theorem witness_ReferenceMultiples : ∀ k ∈ [0, 1, 2, 3, N_ORDER - 1],
    (rich.writeS 5 k).S[(5 : RegIdx)] = ⟨k, true⟩ ∧ (rich.writeS 5 k).S[(0 : RegIdx)] = ⟨0, true⟩ ∧
    (rich.writeS 5 k).A[(0 : RegIdx)] = ⟨.aff GX GY, true⟩ ∧ (rich.writeS 5 k).GCTX = true := by decide +kernel

theorem witness_PointsOfTheCurveHaveOrderN :
    G2.onCurve = true ∧ G2.reduced = true ∧ G2 ≠ .inf ∧ Point.inf.onCurve = true ∧ Point.inf.reduced = true := by
  decide +kernel

/-- Nonce 0; a signature with low s, one with high s, and s = 0 (V-ECD-1, 2, 5, 6; nonce 1 gives R = G). -/
theorem witness_SignWritesTheSignature : DataInv rich ∧ DataInv (rich.writeS 0 (N_ORDER - GX)) ∧ 125 ≤ 125 ∧
    (∀ a ∈ [0, 1, 2, 3], rich.S[(a : RegIdx)].valid = true) ∧ rich.GCTX = true ∧
    (Point.aff GX GY).mulSpec rich.S[(0 : RegIdx)].v = .inf ∧
    (Point.aff GX GY).mulSpec rich.S[(1 : RegIdx)].v = .aff GX GY ∧
    rich.S[(1 : RegIdx)].v * GX % N_ORDER = (rich.S[(0 : RegIdx)].v + GX % N_ORDER * rich.S[(1 : RegIdx)].v) % N_ORDER ∧
    rich.S[(1 : RegIdx)].v * (2 * GX % N_ORDER) % N_ORDER
      = (rich.S[(0 : RegIdx)].v + GX % N_ORDER * rich.S[(3 : RegIdx)].v) % N_ORDER ∧
    GX ≤ (N_ORDER - 1) / 2 ∧ (N_ORDER - 1) / 2 < 2 * GX % N_ORDER ∧ GX % N_ORDER ≠ 0 ∧
    ((N_ORDER - GX) + GX % N_ORDER * rich.S[(1 : RegIdx)].v) % N_ORDER = 0 :=
  ⟨rich_inv, rich_inv.writeS 0 (by decide +kernel), by decide +kernel⟩

/-- Each reason for C = 0, at its boundary value, and the signature of V-ECD-9. -/
theorem witness_VerifyWritesTheVerdict : (∀ r sv, DataInv (signed rich r sv 0)) ∧
    (∀ p ∈ [(0, 1), (N_ORDER, 1), (1, 0), (1, N_ORDER), (GX, GX)],
      (signed rich p.1 p.2 0).memRead (slotAddr 4) 32 = p.1 ∧
      (signed rich p.1 p.2 0).memRead (slotAddr 4 + 32) 32 = p.2) ∧
    rich.A[(0 : RegIdx)].valid = true ∧ rich.A[(0 : RegIdx)].pt ≠ .inf ∧ rich.A[(0 : RegIdx)].pt.onCurve = true ∧
    rich.A[(1 : RegIdx)].pt = .inf ∧ rich.A[(2 : RegIdx)].pt.onCurve = false ∧ GX ≠ 0 ∧ GX < N_ORDER ∧
    GX * 0 % N_ORDER = rich.S[(0 : RegIdx)].v ∧ GX * 1 % N_ORDER = GX ∧
    ((Point.aff GX GY).mulSpec 0).add (rich.A[(0 : RegIdx)].pt.mulSpec 1) = .aff GX GY ∧ GX % N_ORDER = GX :=
  ⟨fun r sv => signed_inv rich_inv r sv 0, by decide +kernel⟩

/-- Each reason for C = 0, at its boundary value (V-ECD-25, 35 to 37), the key of V-ECD-23, and a key at infinity:
h = n - r with the ephemeral point -G. -/
theorem witness_RecoverWritesTheKey : (∀ r sv rid, DataInv (signed rich r sv rid)) ∧
    (∀ p ∈ [(GX, GX, 4), (0, 1, 0), (N_ORDER, 1, 0), (1, 0, 0), (1, N_ORDER, 0), (GX, GX, 2), (5, 1, 0), (GX, GX, 0),
        (GX, GX, 1)],
      (signed rich p.1 p.2.1 p.2.2).memRead (slotAddr 4) 32 = p.1 ∧
      (signed rich p.1 p.2.1 p.2.2).memRead (slotAddr 4 + 32) 32 = p.2.1 ∧
      ((signed rich p.1 p.2.1 p.2.2).readByte (slotAddr 4 + 64)).toNat = p.2.2) ∧
    P_FIELD ≤ GX + 2 / 2 * N_ORDER ∧ GX + 0 / 2 * N_ORDER < P_FIELD ∧
    (¬ ∃ y, y ^ 2 % P_FIELD = ((5 + 0 / 2 * N_ORDER) ^ 3 + 7) % P_FIELD) ∧
    (GY < P_FIELD ∧ GY ^ 2 % P_FIELD = (GX ^ 3 + 7) % P_FIELD ∧ GY % 2 = 0 % 2 ∧
      (GX * 0 + rich.S[(0 : RegIdx)].v) % N_ORDER = 0 ∧ GX * 1 % N_ORDER = GX ∧
      ((Point.aff GX GY).mulSpec 0).add ((Point.aff GX GY).mulSpec 1) ≠ .inf) ∧
    (P_FIELD - GY < P_FIELD ∧ (P_FIELD - GY) ^ 2 % P_FIELD = (GX ^ 3 + 7) % P_FIELD ∧ (P_FIELD - GY) % 2 = 1 % 2 ∧
      (GX * 1 + (N_ORDER - GX)) % N_ORDER = 0 ∧ DataInv (signed rich GX GX 1 |>.writeS 0 (N_ORDER - GX)) ∧
      ((Point.aff GX GY).mulSpec 1).add ((Point.aff GX (P_FIELD - GY)).mulSpec 1) = .inf) := by
  refine ⟨fun r sv rid => signed_inv rich_inv r sv rid, by decide +kernel, by decide +kernel, by decide +kernel, ?_,
    by decide +kernel, by decide +kernel, by decide +kernel, by decide +kernel, by decide +kernel,
    (signed_inv rich_inv _ _ _).writeS 0 (by decide +kernel), by decide +kernel⟩
  rintro ⟨y, hy⟩
  have h : isQrRoot ((5 + 0 / 2 * N_ORDER) ^ 3 + 7) = true := (isQrRoot_iff _).2 ⟨y, by rw [← pow_two]; exact hy⟩
  exact absurd h (by decide +kernel)

theorem witness_SignedHashesVerifyAndRecover : DataInv rich ∧ 125 ≤ 125 ∧
    (∀ a ∈ [0, 1], rich.S[(a : RegIdx)].valid = true) ∧ rich.S[(1 : RegIdx)].v ≠ 0 ∧ rich.GCTX = true ∧
    rich.A[(0 : RegIdx)] = ⟨(Point.aff GX GY).mulSpec rich.S[(1 : RegIdx)].v, true⟩ ∧
    ∃ t, exec (.esign 125 0 1 1) rich = .next t ∧ t.C = true :=
  ⟨rich_inv, by decide, by decide +kernel, by decide +kernel, by decide +kernel, by decide +kernel,
    exists_of_runs (by decide +kernel)⟩

theorem witness_RecoveredKeysVerify : DataInv (signed rich GX GX 0) ∧ 4 ≤ 125 ∧
    (signed rich GX GX 0).S[(0 : RegIdx)].valid = true ∧ (signed rich GX GX 0).GCTX = true ∧
    ∃ t, exec (.erecover 7 0 4) (signed rich GX GX 0) = .next t ∧ t.C = true :=
  ⟨signed_inv rich_inv _ _ _, by decide, by decide +kernel, by decide +kernel, exists_of_runs (by decide +kernel)⟩

/-! The host. -/

theorem witness_StartCommand : (3#32).getLsbD 0 = true ∧ (3#32).getLsbD 2 = false ∧ ready.run = .running ∧
    idle.run = .idle := by decide +kernel

theorem witness_ControlRegisterWrites : (5#32).getLsbD 2 = true ∧ (2#32).getLsbD 2 = false ∧ (2#32).getLsbD 0 = false := by
  decide

theorem witness_BusyMemoryAccessIsDropped : ready.run = .running ∧
    (∀ o ∈ [0x1000, 0x1FFC, 0x10000, 0x13FFC], (BitVec.ofNat 17 o).toNat = o ∧ o % 4 = 0 ∧
      (0x1000 ≤ o ∧ o < 0x2000 ∨ 0x10000 ≤ o ∧ o < 0x14000)) ∧
    (∀ o ∈ [0x000, 0x0FC], (BitVec.ofNat 17 o).toNat = o ∧ o % 4 = 0 ∧ o < 0x100) := by decide +kernel

theorem witness_HostWordsAreLittleEndianLanes : idle.run = .idle ∧
    (∀ o ∈ [0x1000, 0x101C, 0x1FFC], (BitVec.ofNat 17 o).toNat = o ∧ o % 4 = 0 ∧ 0x1000 ≤ o ∧ o < 0x2000) ∧
    (0x1FE0#17).toNat = 0x1000 + 32 * 127 ∧ (slot idle 0 0).run = .idle ∧
    (∀ a < 28, (slot idle 0 0).readByte a = 0#8) := by decide +kernel

theorem witness_HostReachesCommandWords : idle.run = .idle ∧ 4095 < 4096 := by decide +kernel

theorem witness_HostRegisterAccesses :
    (∀ o ∈ [0x20, 0xFFC, 0x2000, 0xFFFC, 0x14000, 0x1FFFC], (BitVec.ofNat 17 o).toNat = o ∧ o % 4 = 0 ∧
      (0x20 ≤ o ∧ o < 0x1000 ∨ 0x2000 ≤ o ∧ o < 0x10000 ∨ 0x14000 ≤ o)) ∧
    (∀ a ∈ [(⟨.read, 2, 0x1000⟩ : BusAccess), ⟨.read, 4, 0x1001⟩], a.bytes ≠ 4 ∨ a.offset.toNat % 4 ≠ 0) := by
  decide +kernel

theorem witness_StatusAndInterrupt : (6#32).getLsbD 1 = true ∧ (6#32).getLsbD 2 = true := by decide

/-- One opcode with other constants, a CT instruction with a slot, and a VT instruction. -/
theorem witness_TimingClasses : timingClass (.fneg 0 1 1) = .ct ∧ (Instr.fneg 0 1 31).mnemonic = (Instr.fneg 0 1 1).mnemonic ∧
    registerNumbers (.fneg 0 1 31) = registerNumbers (.fneg 0 1 1) ∧ slotNumber (.fneg 0 1 31) = slotNumber (.fneg 0 1 1) ∧
    timingClass (.esign 4 0 1 2) = .ct ∧ slotNumber (.esign 4 0 1 2) = some 4 ∧ timingClass (.fnormv 0 1) = .vt :=
  ⟨rfl, rfl, rfl, rfl, rfl, rfl, rfl⟩

end Sys2Proof.Tests
end

section
/-! PROOF. What a reset and the START command leave (10_state.md R44, R45): O12 and O53. -/

namespace Sys2Proof.Machine

theorem keepsMemory_of_eq {s t : State} (hd : t.dmem = s.dmem) (hc : t.cmdmem = s.cmdmem)
    (hp : t.powerUps = s.powerUps) : KeepsMemory s t :=
  ⟨State.readByte_congr hd hp, State.readCmd_congr hc hp⟩

namespace State

variable (s : State)

/-! ### Resets (10_state.md R45) -/

/-- A reset state has nothing left to reset, so what holds of every soft reset holds of every reset of R45. -/
theorem softReset_eq_self_of_reset {u : State}
    (h : u = State.reset ∨ ∃ s : State, u = s.hardReset ∨ u = s.softReset) : u.softReset = u := by
  obtain rfl | ⟨s, rfl | rfl⟩ := h <;> rfl

theorem softReset_registersUnwritten : RegistersUnwritten s.softReset := by
  intro r
  cases r <;> simp [validBit, State.reset, FReg.unwritten, SReg.unwritten, PReg.unwritten]

theorem softReset_keepsMemory : KeepsMemory s s.softReset := keepsMemory_of_eq rfl rfl rfl

@[simp] theorem softReset_statusWord : s.softReset.statusWord = 0#32 := rfl

/-! ### START (10_state.md R44) -/

variable {s}

theorem start_of_running (h : s.run = .running) : s.start = { s with CMDERR := true } := by
  rw [start, h]

theorem start_of_idle (h : s.run = .idle) :
    s.start = { s with pc := s.ENTRY, DONE := false, FAULT := false, CAUSE := .none, FAULT_PC := 0#12,
                       run := .running } := by
  rw [start, h]

variable {v : Word}

theorem writeCtrl_start (hstart : v.getLsbD 0 = true) (hreset : v.getLsbD 2 = false) :
    s.writeCtrl v = { s with IRQ_EN := v.getLsbD 1 }.start := by
  simp only [writeCtrl, hstart, hreset, Bool.false_eq_true, if_true, if_false]

/-- A word access to anything but the memories is honoured in either run state (20_memory.md R51). -/
theorem hostAccess_eq_honour (s : State) {a : BusAccess} (hword : a.malformed = false)
    (hmem : (windowTarget a.offset.toNat).isMemory = false) :
    s.hostAccess a = s.honour a.op (windowTarget a.offset.toNat) := by
  simp only [hostAccess, hword, hmem, Bool.false_and, Bool.false_eq_true, if_false]

theorem hostAccess_write_ctrl (s : State) (v : Word) :
    s.hostAccess ⟨.write v, 4, 0x004#17⟩ = (s.writeCtrl v).respond 0#32 false :=
  s.hostAccess_eq_honour (by simp [BusAccess.malformed]) rfl

/-- START while RUNNING: only CMDERR is set, beside IRQ_EN and the answer on the bus. -/
theorem hostAccess_start_of_running (hstart : v.getLsbD 0 = true) (hreset : v.getLsbD 2 = false)
    (h : s.run = .running) :
    s.hostAccess ⟨.write v, 4, 0x004#17⟩ =
      { s with IRQ_EN := v.getLsbD 1, CMDERR := true, response := ⟨0#32, false⟩ } := by
  rw [hostAccess_write_ctrl, writeCtrl_start hstart hreset, start_of_running]
  · rfl
  · exact h

/-- START while IDLE: a run begins at ENTRY with the record of the last one cleared. -/
theorem hostAccess_start_of_idle (hstart : v.getLsbD 0 = true) (hreset : v.getLsbD 2 = false)
    (h : s.run = .idle) :
    s.hostAccess ⟨.write v, 4, 0x004#17⟩ =
      { s with IRQ_EN := v.getLsbD 1, pc := s.ENTRY, DONE := false, FAULT := false, CAUSE := .none,
               FAULT_PC := 0#12, run := .running, response := ⟨0#32, false⟩ } := by
  rw [hostAccess_write_ctrl, writeCtrl_start hstart hreset, start_of_idle]
  · rfl
  · exact h

end State

/-- Settles O12: every state a reset leaves is its own soft reset, so one set of values serves all three. -/
theorem resetValues : Obligations.ResetValues := by
  refine ⟨fun u hu => ?_, rfl, fun _ => rfl, fun s => ⟨rfl, s.softReset_keepsMemory⟩⟩
  rw [← State.softReset_eq_self_of_reset hu]
  exact ⟨u.softReset_registersUnwritten, rfl, rfl, rfl, rfl, rfl, rfl, u.softReset_statusWord, rfl, rfl⟩

/-- Settles O53, by the run state in which the command arrives. -/
theorem startCommand : Obligations.StartCommand := by
  rintro s v hstart hreset t rfl
  cases h : s.run with
  | running =>
    rw [State.hostAccess_start_of_running hstart hreset h]
    simp [h, keepsMemory_of_eq]
  | idle =>
    rw [State.hostAccess_start_of_idle hstart hreset h]
    simp [Cause.code, keepsMemory_of_eq]

end Sys2Proof.Machine
end

section
/-! PROOF. How the host reaches the two memories (20_memory.md R49-R51): O55, O56 and O57. -/

namespace Sys2Proof.Machine

open Sys2Proof.Config

/-! ### The offsets of the window (20_memory.md R47) -/

theorem windowTarget_isMemory_of_lt {off : Nat} (h : off < 0x1000) : (windowTarget off).isMemory = false := by
  rw [windowTarget, if_pos h]
  repeat' split
  all_goals rfl

theorem windowTarget_dmem {off : Nat} (hlo : 0x1000 ≤ off) (hhi : off < 0x2000) :
    windowTarget off = .dmem (off - 0x1000) := by
  rw [windowTarget, if_neg (by omega), if_pos hhi]

theorem windowTarget_cmdmem {off : Nat} (hlo : 0x10000 ≤ off) (hhi : off < 0x14000) :
    windowTarget off = .cmdmem ((off - 0x10000) / 4) := by
  rw [windowTarget, if_neg (by omega), if_neg (by omega), if_neg (by omega), if_pos hhi]

theorem windowTarget_isMemory_of_window {off : Nat}
    (h : 0x1000 ≤ off ∧ off < 0x2000 ∨ 0x10000 ≤ off ∧ off < 0x14000) : (windowTarget off).isMemory = true := by
  obtain ⟨hlo, hhi⟩ | ⟨hlo, hhi⟩ := h
  · rw [windowTarget_dmem hlo hhi]; rfl
  · rw [windowTarget_cmdmem hlo hhi]; rfl

/-- An aligned word access is no bus error (20_memory.md R48). -/
theorem BusAccess.not_malformed_of_word {op : BusOp} {off : BitVec 17} (h : off.toNat % 4 = 0) :
    BusAccess.malformed ⟨op, 4, off⟩ = false := by
  simp [BusAccess.malformed, h]

/-! ### Operands byte by byte -/

theorem memRead_succ (s : State) (addr nb : Nat) :
    s.memRead addr (nb + 1) = (s.readByte addr).toNat * 256 ^ nb + s.memRead (addr + 1) nb := by
  rw [State.memRead, List.range_succ_eq_map, List.map_cons, List.map_map, valueBE_cons, State.memRead]
  simp [Function.comp_def, Nat.add_assoc, Nat.add_comm 1]

theorem memRead_div (s : State) (addr nb : Nat) : s.memRead addr (nb + 1) / 256 ^ nb = (s.readByte addr).toNat := by
  rw [memRead_succ, Nat.mul_comm, Nat.mul_add_div (by positivity), Nat.div_eq_of_lt (memRead_lt s _ nb), Nat.add_zero]

/-- Leading zero bytes do not count in an operand. -/
theorem memRead_of_zero_prefix (s : State) (addr m nb : Nat) (h : ∀ i < m, s.readByte (addr + i) = 0#8) :
    s.memRead addr (m + nb) = s.memRead (addr + m) nb := by
  induction m generalizing addr with
  | zero => simp
  | succ m ih =>
    have hhead : s.readByte addr = 0#8 := h 0 (by omega)
    have htail : ∀ i < m, s.readByte (addr + 1 + i) = 0#8 := fun i hi => by
      simpa [Nat.add_assoc, Nat.add_comm 1] using h (i + 1) (by omega)
    rw [show m + 1 + nb = m + nb + 1 by omega, memRead_succ, hhead, ih _ htail,
      show addr + 1 + m = addr + (m + 1) by omega]
    simp

/-! ### Byte lanes (20_memory.md R49) -/

@[simp] theorem laneBytes_length (v : Word) : (laneBytes v).length = 4 := rfl

theorem laneBytes_getElem (v : Word) (i : Nat) (h : i < (laneBytes v).length) :
    (laneBytes v)[i] = v.extractLsb' (8 * i) 8 := by
  have hi : i < 4 := h
  interval_cases i <;> rfl

namespace State

variable (s : State)

theorem laneRead_toNat (a : Nat) :
    (s.laneRead a).toNat = (s.readByte a).toNat + (s.readByte (a + 1)).toNat * 2 ^ 8
      + (s.readByte (a + 2)).toNat * 2 ^ 16 + (s.readByte (a + 3)).toNat * 2 ^ 24 := by
  have h0 := (s.readByte a).isLt
  have h1 := (s.readByte (a + 1)).isLt
  have h2 := (s.readByte (a + 2)).isLt
  have h3 := (s.readByte (a + 3)).isLt
  rw [laneRead, BitVec.toNat_ofNat]
  omega

theorem laneRead_extractLsb' (a i : Nat) (hi : i < 4) :
    (s.laneRead a).extractLsb' (8 * i) 8 = s.readByte (a + i) := by
  apply BitVec.eq_of_toNat_eq
  rw [BitVec.extractLsb'_toNat, Nat.shiftRight_eq_div_pow, laneRead_toNat]
  have h0 := (s.readByte a).isLt
  have h1 := (s.readByte (a + 1)).isLt
  have h2 := (s.readByte (a + 2)).isLt
  have h3 := (s.readByte (a + 3)).isLt
  interval_cases i
  · simp only [Nat.mul_zero, pow_zero, Nat.div_one, Nat.add_zero]; omega
  all_goals omega

/-- The lowest lane of a slot's first word is the most significant byte of its operand. -/
theorem memRead_div_eq_laneRead_mod (a : Nat) : s.memRead a 32 / 2 ^ 248 = (s.laneRead a).toNat % 256 := by
  have hbyte := (s.readByte a).isLt
  rw [show (2 : Nat) ^ 248 = 256 ^ 31 by norm_num, memRead_div, laneRead_toNat]
  omega

@[simp] theorem readByte_respond (data : Word) (error : Bool) (a : Nat) :
    (s.respond data error).readByte a = s.readByte a := rfl

@[simp] theorem readCmd_respond (data : Word) (error : Bool) (j : Nat) :
    (s.respond data error).readCmd j = s.readCmd j := rfl

theorem memRead_respond (data : Word) (error : Bool) (addr nb : Nat) :
    (s.respond data error).memRead addr nb = s.memRead addr nb := rfl

/-! ### Accesses while IDLE and while BUSY (20_memory.md R51) -/

variable {s}

theorem hostAccess_of_idle (hidle : s.run = .idle) {a : BusAccess} (hword : a.malformed = false) :
    s.hostAccess a = s.honour a.op (windowTarget a.offset.toNat) := by
  simp only [hostAccess, hword, busy, hidle, reduceCtorEq, decide_false, Bool.and_false, Bool.false_eq_true, if_false]

theorem hostAccess_memory_of_running (hrun : s.run = .running) {a : BusAccess} (hword : a.malformed = false)
    (hmem : (windowTarget a.offset.toNat).isMemory = true) :
    s.hostAccess a = { s with ACCERR := true, response := ⟨0#32, false⟩ } := by
  simp only [hostAccess, hword, hmem, busy, hrun, decide_true, Bool.and_self, Bool.false_eq_true, if_false, if_true,
    respond]

section dmem

variable {off : BitVec 17} (hidle : s.run = .idle) (hword : off.toNat % 4 = 0) (hlo : 0x1000 ≤ off.toNat)
  (hhi : off.toNat < 0x2000)

include hidle hword hlo hhi

theorem hostAccess_read_dmem :
    s.hostAccess ⟨.read, 4, off⟩ = s.respond (s.laneRead (off.toNat - 0x1000)) false := by
  rw [hostAccess_of_idle hidle (BusAccess.not_malformed_of_word hword), windowTarget_dmem hlo hhi]
  rfl

theorem hostAccess_write_dmem (v : Word) :
    s.hostAccess ⟨.write v, 4, off⟩ = (s.writeBytes (off.toNat - 0x1000) (laneBytes v)).respond 0#32 false := by
  rw [hostAccess_of_idle hidle (BusAccess.not_malformed_of_word hword), windowTarget_dmem hlo hhi]
  rfl

end dmem

theorem toNat_cmdmem_offset {j : Nat} (hj : j < 4096) :
    (BitVec.ofNat 17 (0x10000 + 4 * j)).toNat = 0x10000 + 4 * j := by
  rw [BitVec.toNat_ofNat]
  omega

theorem hostAccess_cmdmem (hidle : s.run = .idle) {j : Nat} (hj : j < 4096) (op : BusOp) :
    s.hostAccess ⟨op, 4, BitVec.ofNat 17 (0x10000 + 4 * j)⟩ = s.honour op (.cmdmem j) := by
  have hoff := toNat_cmdmem_offset hj
  rw [hostAccess_of_idle hidle (BusAccess.not_malformed_of_word (by omega)), hoff,
    windowTarget_cmdmem (by omega) (by omega), show (0x10000 + 4 * j - 0x10000) / 4 = j by omega]

/-- Storing 0x07000000 in the last word of a slot whose other bytes are 0 leaves the value 7 in the slot: the fourth
byte is the most significant lane (20_memory.md R49). -/
theorem memRead_writeBytes_lane_seven (s : State) (addr : Nat) (h : ∀ i < 28, s.readByte (addr + i) = 0#8) :
    (s.writeBytes (addr + 28) (laneBytes 0x07000000#32)).memRead addr 32 = 7 := by
  have hkept : ∀ i < 28, (s.writeBytes (addr + 28) (laneBytes 0x07000000#32)).readByte (addr + i) = 0#8 :=
    fun i hi => by rw [readByte_writeBytes_outside _ _ _ _ (by omega), h i hi]
  calc (s.writeBytes (addr + 28) (laneBytes 0x07000000#32)).memRead addr (28 + 4)
      = (s.writeBytes (addr + 28) (laneBytes 0x07000000#32)).memRead (addr + 28) 4 :=
        memRead_of_zero_prefix _ addr 28 4 hkept
    _ = valueBE (laneBytes 0x07000000#32) := memRead_writeBytes s (addr + 28) (laneBytes 0x07000000#32)
    _ = 7 := by decide

end State

/-- Settles O56: while IDLE a read of the window answers the four lanes and a write stores them. -/
theorem hostWordsAreLittleEndianLanes : Obligations.HostWordsAreLittleEndianLanes := by
  intro s off v hidle hword hlo hhi
  rw [State.hostAccess_read_dmem hidle hword hlo hhi, State.hostAccess_write_dmem hidle hword hlo hhi]
  refine ⟨fun i hi => s.laneRead_extractLsb' _ i hi, fun i hi => ?lanes, fun a ha => ?frame, rfl, rfl,
    fun slot _ hslot => ?slot, ?seven⟩
  case lanes =>
    have hlen : i < (laneBytes v).length := hi
    rw [State.readByte_respond, State.readByte_writeBytes_inside _ _ _ i hlen, laneBytes_getElem]
  case frame => exact s.readByte_writeBytes_outside _ _ a ha
  case slot =>
    rw [show off.toNat - 0x1000 = slotAddr slot by rw [slotAddr, SLOT_BYTES]; omega]
    exact s.memRead_div_eq_laneRead_mod _
  case seven =>
    rintro rfl hzero
    rw [State.hostAccess_write_dmem hidle hword hlo hhi, State.memRead_respond]
    exact State.memRead_writeBytes_lane_seven s 0 (by simpa using hzero)

/-- Settles O55: while RUNNING an access to either memory only sets ACCERR and answers 0; the control registers are no
memory. -/
theorem busyMemoryAccessIsDropped : Obligations.BusyMemoryAccessIsDropped := by
  constructor
  · intro s op off hrun hword hwindow
    rw [State.hostAccess_memory_of_running hrun (BusAccess.not_malformed_of_word hword)
      (windowTarget_isMemory_of_window hwindow)]
    exact ⟨keepsMemory_of_eq rfl rfl rfl, fun _ => rfl, rfl⟩
  · intro s op off hword hctrl
    exact s.hostAccess_eq_honour (BusAccess.not_malformed_of_word hword)
      (windowTarget_isMemory_of_lt (hctrl.trans (by decide)))

/-- Settles O57: while IDLE a word of the command window is read and written as the CMDMEM word of its index. -/
theorem hostReachesCommandWords : Obligations.HostReachesCommandWords := by
  rintro s j v t u hidle hj rfl rfl
  rw [State.hostAccess_cmdmem hidle hj, State.hostAccess_cmdmem hidle hj]
  exact ⟨rfl, rfl, s.readCmd_writeCmd j v, s.readByte_writeCmd j v, rfl⟩

end Sys2Proof.Machine
end

section
/-! PROOF. The multiples of the generator that 44_multiply.md R137 tabulates: O46. -/

namespace Sys2Proof.Machine

open Sys2Proof.Config

/-! ### Multiples of a point (00_scope.md R18) -/

@[simp] theorem Point.inf_add (Q : Point) : Point.inf.add Q = Q := rfl

@[simp] theorem Point.add_inf (Q : Point) : Q.add .inf = Q := by
  cases Q <;> rfl

@[simp] theorem Point.mul_zero (Q : Point) : Q.mul 0 = .inf := rfl

@[simp] theorem combined_zero_right (k : Nat) (Q : Point) : combined k 0 Q = Point.gen.mul k := by
  simp [combined]

@[simp] theorem combined_zero_left (k : Nat) (Q : Point) : combined 0 k Q = Q.mul k := by
  simp [combined]

/-- (n - 1) P = -P on the curve (44_multiply.md R134), since n P is infinity. -/
theorem Point.mulSpec_order_sub_one {Q : Point} (hc : Q.onCurve = true) (hr : Q.reduced = true) :
    Q.mulSpec (N_ORDER - 1) = Q.neg := by
  have := P_FIELD_fact
  obtain ⟨R, hQ⟩ := Rep.exists_of (F := ZMod P_FIELD) hc hr
  have hneg : (N_ORDER - 1) • R = -R := by
    refine eq_neg_of_add_eq_zero_left ?_
    rw [← succ_nsmul, Nat.sub_add_cancel N_ORDER_pos, order_nsmul]
  exact (hneg ▸ hQ.mulSpec (N_ORDER - 1)).left_unique hQ.neg

/-! ### The rows of the table -/

theorem gen_mulSpec_one : Point.gen.mulSpec 1 = .aff GX GY := rfl

theorem gen_mulSpec_two : Point.gen.mulSpec 2 =
    .aff 0xC6047F9441ED7D6D3045406E95C07CD85C778E4B8CEF3CA7ABAC09B95C709EE5
      0x1AE168FEA63DC339A3C58419466CEAEEF7F632653266D0E1236431A950CFE52A := by
  decide +kernel

theorem gen_mulSpec_three : Point.gen.mulSpec 3 =
    .aff 0xF9308A019258C31049344F85F89D5229B531C845836F99B08601F113BCE036F9
      0x388F7B0F632DE8140FE337E62A37F3566500A99934C2231B6CB9FD7584B8E672 := by
  rw [Point.mulSpec, gen_mulSpec_two]
  decide +kernel

theorem gen_mulSpec_order_sub_one : Point.gen.mulSpec (N_ORDER - 1) =
    .aff GX 0xB7C52588D95C3B9AA25B0403F1EEF75702E84BB7597AABE663B82F6F04EF2777 := by
  rw [Point.mulSpec_order_sub_one Point.gen_onCurve Point.gen_reduced]
  decide +kernel

/-! ### The multiply instructions when their checks pass (44_multiply.md R134-R136) -/

section exec

variable {s : State} {a b c : RegIdx} {k l : Nat} {P : Point}

theorem rdS_of_eq (h : s.S[a] = ⟨k, true⟩) : rdS s a = .ok k := by
  rw [rdS, h, if_pos rfl]

theorem rdA_of_eq (h : s.A[a] = ⟨P, true⟩) : rdA s a = .ok P := by
  rw [rdA, h, if_pos rfl]

theorem checkContext_ok (h : s.GCTX = true) : checkContext s = .ok () := by
  rw [checkContext, h, Bool.not_true, raiseIf_false]

theorem exec_pmul (d : RegIdx) (hk : rdS s a = .ok k) (hP : rdA s b = .ok P) :
    exec (.pmul d a b) s = .next (s.writeGroup d P.onCurve (P.mul k)).advance := by
  simp only [exec, execPmul, hk, hP, ok_bind, pure_eq_ok, settle_ok]

theorem exec_pmulg (d : RegIdx) (hk : rdS s a = .ok k) (hctx : s.GCTX = true) :
    exec (.pmulg d a) s = .next (s.writeJ d (Point.gen.mul k)).advance := by
  simp only [exec, execPmulg, hk, checkContext_ok hctx, ok_bind, pure_eq_ok, settle_ok]

theorem exec_pmulgq (d : RegIdx) (hk : rdS s a = .ok k) (hl : rdS s b = .ok l) (hP : rdA s c = .ok P)
    (hctx : s.GCTX = true) :
    exec (.pmulgq d a b c) s = .next (s.writeGroup d P.onCurve (combined k l P)).advance := by
  simp only [exec, execPmulgq, hk, hl, hP, checkContext_ok hctx, ok_bind, pure_eq_ok, settle_ok]

/-- An instruction that writes J[d] and advances leaves that point in J[d]. -/
theorem yields_of_exec_eq_writeJ {i : Instr} {d : RegIdx} (h : exec i s = .next (s.writeJ d P).advance) :
    Yields i s fun t => t.J[d].pt = P :=
  ⟨_, h, congrArg PReg.pt (s.writeJ_same d P)⟩

end exec

/-- The four ways to k G: PMUL with P = G, PMULG, and PMULGQ with Q = G and the other scalar 0 (44_multiply.md R137). -/
theorem yields_gen_mul {s : State} {a b c : RegIdx} {k : Nat} (d : RegIdx) (hk : rdS s a = .ok k)
    (hzero : rdS s b = .ok 0) (hG : rdA s c = .ok Point.gen) (hctx : s.GCTX = true) :
    Yields (.pmul d a c) s (fun t => t.J[d].pt = Point.gen.mul k) ∧
    Yields (.pmulg d a) s (fun t => t.J[d].pt = Point.gen.mul k) ∧
    Yields (.pmulgq d a b c) s (fun t => t.J[d].pt = Point.gen.mul k) ∧
    Yields (.pmulgq d b a c) s (fun t => t.J[d].pt = Point.gen.mul k) := by
  refine ⟨?pmul, ?pmulg, ?generator, ?point⟩ <;> apply yields_of_exec_eq_writeJ
  case pmul => rw [exec_pmul d hk hG, Point.gen_onCurve, State.writeGroup_known]
  case pmulg => rw [exec_pmulg d hk hctx]
  case generator =>
    rw [exec_pmulgq d hk hzero hG hctx, Point.gen_onCurve, State.writeGroup_known, combined_zero_right]
  case point =>
    rw [exec_pmulgq d hzero hk hG hctx, Point.gen_onCurve, State.writeGroup_known, combined_zero_left]

/-- Settles O46: each row is a repeated addition of the generator, which doubling and adding computes. -/
theorem referenceMultiples : Obligations.ReferenceMultiples := by
  intro k Q hrow
  have hQ : Point.gen.mulSpec k = Q := by
    simp only [List.mem_cons, List.not_mem_nil, or_false, Prod.mk.injEq] at hrow
    obtain ⟨rfl, rfl⟩ | ⟨rfl, rfl⟩ | ⟨rfl, rfl⟩ | ⟨rfl, rfl⟩ | ⟨rfl, rfl⟩ := hrow
    · rfl
    · exact gen_mulSpec_one
    · exact gen_mulSpec_two
    · exact gen_mulSpec_three
    · exact gen_mulSpec_order_sub_one
  refine ⟨hQ, fun s d a b c hk hzero hG hctx => ?_⟩
  rw [← hQ, ← Point.gen_mul_eq_mulSpec]
  exact yields_gen_mul d (rdS_of_eq hk) (rdS_of_eq hzero) (rdA_of_eq hG) hctx

end Sys2Proof.Machine
end

section
/-! PROOF. Words and instructions (30_encoding.md R64-R70): O1, O2, O3, O4. -/

namespace Sys2Proof

open Sys2Proof.Machine

/-! ### The fields of a word as operands -/

theorem r4_val_eq_imm12_mod (w : Word) : (r4 w).val = imm12 w % 16 := by
  simp only [r4_val, bits, imm12]; omega

theorem r4_of_imm12 {w : Word} {x : RegIdx} (h : imm12 w = x.val) : r4 w = x :=
  Fin.ext (by rw [r4_val_eq_imm12_mod, h, Nat.mod_eq_of_lt x.isLt])

/-- PMULGQ's reserved bits are the upper bits of imm12. -/
theorem bits_mid_eq_imm12_div (w : Word) : bits w 4 8 = imm12 w / 16 := by
  have := w.isLt
  simp only [bits, imm12]; omega

/-! ### From an instruction to its word and back -/

/-- To decode a packed word, its fields are all that is needed. -/
theorem decode_pack {op x1 x2 x3 m : Nat} {i : Instr} (hop : op < 256) (h1 : x1 < 16) (h2 : x2 < 16) (h3 : x3 < 16)
    (hm : m < 4096)
    (h : ∀ w, opField w = op → r1Field w = x1 → r2Field w = x2 → r3Field w = x3 → imm12 w = m → decode w = .ok i) :
    decode (pack op x1 x2 x3 m) = .ok i :=
  h _ (opField_pack hop h1 h2 h3 hm) (r1Field_pack hop h1 h2 h3 hm) (r2Field_pack hop h1 h2 h3 hm)
    (r3Field_pack hop h1 h2 h3 hm) (imm12_pack hop h1 h2 h3 hm)

theorem decode_encode_of_destination {i : Instr} (hwf : i.wellFormed = true) (hd : destination i ≠ none) :
    decode (encode i) = .ok i := by
  cases i
  all_goals
    simp only [destination, ne_eq, reduceCtorEq, not_false_eq_true, not_true_eq_false] at hd
  all_goals
    simp only [Instr.wellFormed, fitsImm12, decide_eq_true_iff] at hwf
    refine decode_pack (by omega) (by omega) (by omega) (by omega) (by omega) fun w hop h1 h2 h3 hm => ?_
    rw [decode, hop]
  case pmulgq => simp [mustBeZero, r1, r2, r3, r4_of_imm12 hm, h1, h2, h3, hm, bits_mid_eq_imm12_div]
  all_goals simp [mustBeZero, r1, r2, r3, h1, h2, h3, hm]

theorem decode_encode_of_no_destination {i : Instr} (hwf : i.wellFormed = true) (hd : destination i = none) :
    decode (encode i) = .ok i := by
  cases i
  all_goals simp only [destination, reduceCtorEq] at hd
  all_goals
    simp only [Instr.wellFormed, fitsImm12, fitsR3, Bool.and_eq_true, decide_eq_true_iff] at hwf
    refine decode_pack (by omega) (by omega) (by omega) (by omega) (by omega) fun w hop h1 h2 h3 hm => ?_
    rw [decode, hop]
    simp [mustBeZero, r1, r2, r3, h1, h2, h3, hm, target]

/-- Settles O1, instruction by instruction: the decoder reads the fields that the encoder packed. -/
theorem everyInstructionDecodesFromItsWord : Obligations.EveryInstructionDecodesFromItsWord := by
  intro i hwf
  by_cases hd : destination i = none
  · exact decode_encode_of_no_destination hwf hd
  · exact decode_encode_of_destination hwf hd

/-! ### From a word to its instruction and back -/

/-- What the decoder reads is what the encoder writes: the fields that the encoding leaves 0 are those that the decoder
requires to be 0. -/
theorem encode_of_decode {w : Word} {i : Instr} (h : decode w = .ok i) : encode i = w := by
  rw [← pack_fields w]
  unfold decode at h
  split at h
  case h_66 => cases h
  case h_63 hop => cases h; simp [encode, hop]
  case h_62 hop =>
    obtain ⟨hz, rfl⟩ := mustBeZero_ok h
    rw [bits_mid_eq_imm12_div] at hz
    rw [encode, hop, r1_val, r2_val, r3_val, r4_val_eq_imm12_mod, Nat.mod_eq_of_lt (by omega)]
  all_goals
    rename_i hop
    obtain ⟨hz, rfl⟩ := mustBeZero_ok h
    simp only [Nat.add_eq_zero_iff, encode, hop, r1_val, r2_val, r3_val, target_toNat] at hz ⊢
    simp [hz]

/-! ### Rows of the opcode table -/

/-- A row selects a word by its fields: each, masked, has the row's value (30_encoding.md R67). -/
theorem selectedBy_iff_fields (name : String) (v m w : Word) :
    OpRow.selectedBy ⟨name, v, m⟩ w = true ↔ opField w &&& opField m = opField v ∧
      r1Field w &&& r1Field m = r1Field v ∧ r2Field w &&& r2Field m = r2Field v ∧
      r3Field w &&& r3Field m = r3Field v ∧ imm12 w &&& imm12 m = imm12 v := by
  rw [OpRow.selectedBy, beq_iff_eq, masked_eq_iff_fields]

/-! The fields of a literal, to evaluate those of the table. -/

theorem opField_ofNat (n : Nat) : opField (BitVec.ofNat 32 n) = n / 2 ^ 24 % 2 ^ 8 := by
  rw [opField, bits, BitVec.toNat_ofNat]; omega

theorem r1Field_ofNat (n : Nat) : r1Field (BitVec.ofNat 32 n) = n / 2 ^ 20 % 2 ^ 4 := by
  rw [r1Field, bits, BitVec.toNat_ofNat]; omega

theorem r2Field_ofNat (n : Nat) : r2Field (BitVec.ofNat 32 n) = n / 2 ^ 16 % 2 ^ 4 := by
  rw [r2Field, bits, BitVec.toNat_ofNat]; omega

theorem r3Field_ofNat (n : Nat) : r3Field (BitVec.ofNat 32 n) = n / 2 ^ 12 % 2 ^ 4 := by
  rw [r3Field, bits, BitVec.toNat_ofNat]; omega

theorem imm12_ofNat (n : Nat) : imm12 (BitVec.ofNat 32 n) = n % 2 ^ 12 := by
  rw [imm12, bits, BitVec.toNat_ofNat]; omega

/-! A field under a mask of ones is the field. -/

theorem and_low_mask {x n : Nat} (h : x < 2 ^ n) : x &&& (2 ^ n - 1) = x := by
  rw [Nat.and_two_pow_sub_one_eq_mod, Nat.mod_eq_of_lt h]

theorem opField_and_mask (w : Word) : opField w &&& 255 = opField w := and_low_mask (n := 8) (opField_lt w)
theorem r1Field_and_mask (w : Word) : r1Field w &&& 15 = r1Field w := and_low_mask (n := 4) (r1Field_lt w)
theorem r2Field_and_mask (w : Word) : r2Field w &&& 15 = r2Field w := and_low_mask (n := 4) (r2Field_lt w)
theorem r3Field_and_mask (w : Word) : r3Field w &&& 15 = r3Field w := and_low_mask (n := 4) (r3Field_lt w)
theorem imm12_and_mask (w : Word) : imm12 w &&& 4095 = imm12 w := and_low_mask (n := 12) (imm12_lt w)

/-- The mask of PMULGQ's reserved bits. -/
theorem imm12_and_mid_mask (w : Word) : imm12 w &&& 4080 = 16 * bits w 4 8 := by
  have hdiv : (imm12 w &&& 4080) / 2 ^ 4 = bits w 4 8 := by
    rw [Nat.and_div_two_pow, bits_mid_eq_imm12_div]
    exact and_low_mask (n := 8) (by have := imm12_lt w; omega)
  have hmod : (imm12 w &&& 4080) % 2 ^ 4 = 0 := by rw [Nat.and_mod_two_pow]; simp
  omega

/-- The row of an op field. -/
def rowOf (op : Nat) : Option OpRow := opcodeRows.find? fun r => opField r.value == op

/-- The rows have different op fields. -/
theorem rowOf_of_mem : ∀ r ∈ opcodeRows, rowOf (opField r.value) = some r := by decide +kernel

theorem mem_of_rowOf {op : Nat} {r : OpRow} (h : rowOf op = some r) : r ∈ opcodeRows := List.mem_of_find?_eq_some h

theorem opField_of_rowOf {op : Nat} {r : OpRow} (h : rowOf op = some r) : opField r.value = op :=
  beq_iff_eq.1 (List.find?_some (p := fun r : OpRow => opField r.value == op) h)

/-- A row selects words of its own op field only. -/
theorem opField_eq_of_selectedBy {r : OpRow} (hr : r ∈ opcodeRows) {w : Word} (h : r.selectedBy w = true) :
    opField w = opField r.value := by
  have hmask : ∀ r ∈ opcodeRows, opField r.mask = 255 := by decide +kernel
  rw [← ((selectedBy_iff_fields _ _ _ w).1 h).1, hmask r hr, opField_and_mask]

theorem rowOf_of_selectedBy {r : OpRow} (hr : r ∈ opcodeRows) {w : Word} (h : r.selectedBy w = true) :
    rowOf (opField w) = some r := by
  rw [opField_eq_of_selectedBy hr h, rowOf_of_mem r hr]

/-- The word of an instruction selects the row of its op field, which has the instruction's mnemonic. -/
theorem rowOf_of_decode {w : Word} {i : Instr} (h : decode w = .ok i) :
    ∃ r, rowOf (opField w) = some r ∧ r.name = i.mnemonic ∧ r.selectedBy w = true := by
  unfold decode at h
  split at h
  case h_66 => cases h
  case h_63 hop =>
    cases h
    rw [hop]
    refine ⟨_, rfl, rfl, ?_⟩
    simp [selectedBy_iff_fields, opField_ofNat, r1Field_ofNat, r2Field_ofNat, r3Field_ofNat, imm12_ofNat, hop]
  all_goals
    rename_i hop
    obtain ⟨hz, rfl⟩ := mustBeZero_ok h
    rw [hop]
    refine ⟨_, rfl, rfl, ?_⟩
    simp only [selectedBy_iff_fields, opField_ofNat, r1Field_ofNat, r2Field_ofNat, r3Field_ofNat, imm12_ofNat, hop,
      Nat.reducePow, Nat.reduceDiv, Nat.reduceMod, Nat.reduceAnd, Nat.and_zero, r1Field_and_mask, r2Field_and_mask,
      r3Field_and_mask, imm12_and_mask, imm12_and_mid_mask, true_and, and_true]
    omega

theorem mustBeZero_error {w : Word} {z : Nat} {i : Instr} {e : Reject} (h : mustBeZero w z i = .error e) : z ≠ 0 := by
  rintro rfl
  cases h

/-- A word that is no instruction does not select the row of its op field. -/
theorem not_selectedBy_of_decode {w : Word} {e : Reject} (h : decode w = .error e) {r : OpRow}
    (hr : rowOf (opField w) = some r) : ¬ r.selectedBy w = true := by
  unfold decode at h
  split at h
  case h_63 => cases h
  case h_66 =>
    have hop : opField w ∈ opcodeRows.map fun r => opField r.value :=
      List.mem_map.2 ⟨r, mem_of_rowOf hr, opField_of_rowOf hr⟩
    simp only [opcodeRows, controlRows, moveRows, fieldRows, scalarRows, groupRows, multiplyRows, ecdsaRows,
      List.cons_append, List.nil_append, List.map_cons, List.map_nil, opField_ofNat, Nat.reducePow, Nat.reduceDiv,
      Nat.reduceMod, List.mem_cons, List.not_mem_nil, or_false] at hop
    simp_all only [imp_false, or_self]
  all_goals
    rename_i hop
    have hz := mustBeZero_error h
    rw [hop] at hr
    obtain rfl := Option.some.inj hr
    simp only [selectedBy_iff_fields, opField_ofNat, r1Field_ofNat, r2Field_ofNat, r3Field_ofNat, imm12_ofNat, hop,
      Nat.reducePow, Nat.reduceDiv, Nat.reduceMod, Nat.reduceAnd, Nat.and_zero, r1Field_and_mask, r2Field_and_mask,
      r3Field_and_mask, imm12_and_mask, imm12_and_mid_mask, true_and, and_true]
    omega

/-! ### O2, O3, O4 -/

/-- A selected row's word decodes to an instruction of the row. -/
theorem decode_of_selectedBy {r : OpRow} (hr : r ∈ opcodeRows) {w : Word} (h : r.selectedBy w = true) :
    ∃ i, decode w = .ok i ∧ i.mnemonic = r.name := by
  have hrow := rowOf_of_selectedBy hr h
  cases hd : decode w with
  | error e => exact absurd h (not_selectedBy_of_decode hd hrow)
  | ok i =>
    obtain ⟨r', hrow', hname, -⟩ := rowOf_of_decode hd
    obtain rfl := Option.some.inj (hrow.symm.trans hrow')
    exact ⟨i, rfl, hname.symm⟩

theorem name_injOn_opcodeRows : ∀ r ∈ opcodeRows, ∀ r' ∈ opcodeRows, r.name = r'.name → r = r' := by
  decide +kernel

/-- Settles O2: the decoder is the encoder's inverse, and what it answers is well formed. -/
theorem everyDecodedWordIsItsEncoding : Obligations.EveryDecodedWordIsItsEncoding :=
  fun _ _ h => ⟨encode_of_decode h, decode_wellFormed h⟩

/-- Settles O3: the row a word selects is the row of its op field. -/
theorem rowsSelectTheDecodedInstruction : Obligations.RowsSelectTheDecodedInstruction := by
  refine fun w => ⟨fun r hr => ⟨decode_of_selectedBy hr, ?_⟩, fun r hr r' hr' h h' => ?_⟩
  · rintro ⟨i, hi, hname⟩
    obtain ⟨r', hrow, hname', hsel⟩ := rowOf_of_decode hi
    rwa [name_injOn_opcodeRows r hr r' (mem_of_rowOf hrow) (hname.symm.trans hname'.symm)]
  · exact Option.some.inj ((rowOf_of_selectedBy hr h).symm.trans (rowOf_of_selectedBy hr' h'))

/-- Settles O4, by evaluating the decoder on the ten words. -/
theorem specExampleWordsDecode : Obligations.SpecExampleWordsDecode := by
  unfold Obligations.SpecExampleWordsDecode
  decide +kernel

/-! ### Words that no row selects (30_encoding.md R69) -/

/-- The op fields of the rows are the assigned ones. -/
theorem opField_value_not_mem_unassignedOps : ∀ r ∈ opcodeRows, opField r.value ∉ unassignedOps := by
  decide +kernel

theorem exists_row_of_not_mem_unassignedOps :
    ∀ op < 256, op ∉ unassignedOps → ∃ r ∈ opcodeRows, opField r.value = op := by
  decide +kernel

/-- A word with the op field of a row selects it when the bits that the row marks 0 are 0. -/
theorem selectedBy_iff_low_bits {r : OpRow} (hr : r ∈ opcodeRows) {w : Word} (hop : opField r.value = opField w) :
    r.selectedBy w = true ↔ w &&& r.mask &&& 0x00FFFFFF#32 = 0#32 := by
  have hlow : ∀ r ∈ opcodeRows, r.value &&& 0x00FFFFFF#32 = 0#32 ∧ opField r.mask = 255 := by decide +kernel
  obtain ⟨hvalue, hmask⟩ := hlow r hr
  simp only [masked_eq_iff_fields, opField_ofNat, r1Field_ofNat, r2Field_ofNat, r3Field_ofNat, imm12_ofNat,
    Nat.reducePow, Nat.reduceDiv, Nat.reduceMod, Nat.and_zero, r1Field_and_mask, r2Field_and_mask, r3Field_and_mask,
    imm12_and_mask, true_and] at hvalue ⊢
  obtain ⟨v1, v2, v3, v4⟩ := hvalue
  rw [OpRow.selectedBy, beq_iff_eq, masked_eq_iff_fields, hmask, hop, opField_and_mask, v1, v2, v3, v4]
  simp [r1Field, r2Field, r3Field, imm12, bits_and, -Nat.reducePow]

end Sys2Proof
end

section
/-! PROOF. The step of the machine, and what a host access can do (40_control.md R72, 20_memory.md R47-R51):
O5, O6, O7, O54, O58, O59. -/

namespace Sys2Proof.Machine

open Sys2Proof.Config

/-! ### One move (40_control.md R72) -/

/-- What one move of the machine can be: the engine's, a host access, or a hard reset. -/
inductive StepEffect (s : State) : State → Prop
  | idle : engineMovesNext s → s.run = .idle → StepEffect s s.popMove
  | exec {i : Instr} {t : State} : engineMovesNext s → s.run = .running → decode s.fetch = .ok i →
      exec i s.popMove = .next t → StepEffect s t
  | illegal {e : Reject} : engineMovesNext s → s.run = .running → decode s.fetch = .error e →
      StepEffect s (s.popMove.takeFault .illegal)
  | host {a : BusAccess} {rest : List Move} : s.inputs = .host a :: rest →
      StepEffect s ((s.withInputs rest).hostAccess a)
  | hardReset {rest : List Move} : s.inputs = .hardReset :: rest → StepEffect s (s.withInputs rest).hardReset

theorem step_effect {s t : State} (h : step s = .next t) : StepEffect s t := by
  obtain ⟨hmove, hstep⟩ | ⟨a, rest, hin, hstep⟩ | ⟨rest, hin, hstep⟩ := step_cases s
  · rw [hstep] at h
    obtain ⟨hrun, he⟩ | ⟨hrun, i, hi, he⟩ | ⟨hrun, e, hd, he⟩ := engineStep_cases s.popMove <;> rw [he] at h
    · cases h; exact .idle hmove hrun
    · exact .exec hmove hrun hi h
    · cases h; exact .illegal hmove hrun hd
  · rw [hstep] at h; cases h; exact .host hin
  · rw [hstep] at h; cases h; exact .hardReset hin

section running

variable {s : State} (hmove : engineMovesNext s)

include hmove

theorem step_of_idle (hrun : s.run = .idle) : step s = .next s.popMove := by
  rw [step_engine hmove, engineStep, State.popMove_run, hrun]

theorem step_of_decode (hrun : s.run = .running) {i : Instr} (hi : decode s.fetch = .ok i) :
    step s = exec i s.popMove := by
  rw [step_engine hmove, engineStep, State.popMove_run, hrun, State.popMove_fetch]
  simp only [hi]

theorem step_of_reject (hrun : s.run = .running) {e : Reject} (he : decode s.fetch = .error e) :
    step s = .next (s.popMove.takeFault .illegal) := by
  rw [step_engine hmove, engineStep, State.popMove_run, hrun, State.popMove_fetch]
  simp only [he, settle_error]

end running

/-- Settles O6: the engine's step, at a word that decodes. -/
theorem stepRunsTheDecodedInstruction : Obligations.StepRunsTheDecodedInstruction :=
  fun _ _ hrun hmove hi => ⟨decode_wellFormed hi, step_of_decode hmove hrun hi, State.popMove_of_nil⟩

/-- Settles O7. -/
theorem aStepIsOneMoveOfOneAgent : Obligations.AStepIsOneMoveOfOneAgent :=
  fun _ => ⟨fun hrun hmove => step_of_idle hmove hrun, fun _ _ hin => step_host hin, fun _ hin => step_hardReset hin⟩

/-- Settles O5: a word is an instruction's exactly when it selects a row, and the bits a row marks 0 are all that a word
with its op field can fail by. -/
theorem wordsNoRowMatchesFaultIllegal : Obligations.WordsNoRowMatchesFaultIllegal := by
  refine ⟨fun s hrun hmove => ⟨fun hnone => ?_, ?_⟩, by decide +kernel, fun w hw r hr => ?_, fun w hw => ?_,
    by decide +kernel⟩
  · cases hd : decode s.fetch with
    | error e => exact step_of_reject hmove hrun hd
    | ok i =>
      obtain ⟨r, hrow, -, hsel⟩ := rowOf_of_decode hd
      exact absurd hsel (by rw [hnone r (mem_of_rowOf hrow)]; decide)
  · rintro ⟨r, hr, hsel⟩
    obtain ⟨i, hi, -⟩ := decode_of_selectedBy hr hsel
    exact ⟨i, hi, step_of_decode hmove hrun hi⟩
  · refine Bool.eq_false_iff.2 fun hsel => opField_value_not_mem_unassignedOps r hr ?_
    rwa [← opField_eq_of_selectedBy hr hsel]
  · obtain ⟨r, hr, hop⟩ := exists_row_of_not_mem_unassignedOps _ (opField_lt w) hw
    exact ⟨r, hr, hop, selectedBy_iff_low_bits hr hop⟩

/-! ### Host accesses (20_memory.md R47-R51) -/

/-- What a host access can do to the state, beside its answer on the bus. -/
inductive HostEffect (s : State) : BusAccess → State → Prop
  | answer (a : BusAccess) (data : Word) (error : Bool) : HostEffect s a (s.respond data error)
  | dropped (a : BusAccess) : HostEffect s a ({ s with ACCERR := true }.respond 0#32 false)
  | ctrl (v : Word) : HostEffect s ⟨.write v, 4, 0x004#17⟩ ((s.writeCtrl v).respond 0#32 false)
  | status (a : BusAccess) (v : Word) : HostEffect s a ((s.writeStatus v).respond 0#32 false)
  | entry (a : BusAccess) (e : Word12) : HostEffect s a ({ s with ENTRY := e }.respond 0#32 false)
  | dmem (a : BusAccess) (lo : Nat) (bs : List Byte) : lo + bs.length ≤ DMEM_BYTES →
      HostEffect s a ((s.writeBytes lo bs).respond 0#32 false)
  | cmdmem (a : BusAccess) (j : Nat) (w : Word) : j < CMD_WORDS → HostEffect s a ((s.writeCmd j w).respond 0#32 false)

theorem windowTarget_eq_ctrl {off : Nat} (h : windowTarget off = .ctrl) : off = 4 := by
  unfold windowTarget at h
  repeat' split at h
  all_goals first | assumption | cases h

theorem windowTarget_of_ge {off : Nat} (h : 0x1000 ≤ off) :
    windowTarget off = if off < 0x2000 then .dmem (off - 0x1000) else if off < 0x10000 then .reserved
      else if off < 0x14000 then .cmdmem ((off - 0x10000) / 4) else .reserved := by
  rw [windowTarget, if_neg (by omega)]

theorem le_of_windowTarget_isMemory {off : Nat} (h : (windowTarget off).isMemory = true) : 0x1000 ≤ off := by
  by_contra hlt
  rw [windowTarget_isMemory_of_lt (by omega)] at h
  cases h

theorem windowTarget_eq_dmem {off a : Nat} (h : windowTarget off = .dmem a) : off < 0x2000 ∧ a = off - 0x1000 := by
  rw [windowTarget_of_ge (le_of_windowTarget_isMemory (by rw [h]; rfl))] at h
  split_ifs at h with hlt
  exact ⟨hlt, (WindowTarget.dmem.inj h).symm⟩

theorem windowTarget_eq_cmdmem {off j : Nat} (h : windowTarget off = .cmdmem j) : j < CMD_WORDS := by
  rw [windowTarget_of_ge (le_of_windowTarget_isMemory (by rw [h]; rfl))] at h
  split_ifs at h with _ _ hlt
  have := WindowTarget.cmdmem.inj h
  rw [CMD_WORDS]; omega

theorem hostAccess_effect (s : State) (a : BusAccess) : HostEffect s a (s.hostAccess a) := by
  obtain ⟨op, bytes, off⟩ := a
  rw [State.hostAccess]
  split
  · exact .answer _ _ _
  · rename_i hword
    simp only [BusAccess.malformed, decide_eq_true_eq, not_or, not_not] at hword
    obtain ⟨rfl, halign⟩ := hword
    split
    · exact .dropped _
    · cases op with
      | read => exact .answer _ _ _
      | write v =>
        simp only [State.honour]
        cases ht : windowTarget off.toNat with
        | ctrl =>
          obtain rfl : off = 0x004#17 := BitVec.eq_of_toNat_eq (windowTarget_eq_ctrl ht)
          exact .ctrl v
        | status => exact .status _ v
        | entry => exact .entry _ _
        | dmem a =>
          obtain ⟨hlt, ha⟩ := windowTarget_eq_dmem ht
          exact .dmem _ _ _ (by rw [laneBytes_length, DMEM_BYTES]; omega)
        | cmdmem j => exact .cmdmem _ _ _ (windowTarget_eq_cmdmem ht)
        | id | pc | cause | faultPc | k | reserved => exact .answer _ _ _

/-! ### START in each field -/

namespace State

variable (s : State)

@[simp] theorem start_F : s.start.F = s.F := by rw [start]; split <;> rfl
@[simp] theorem start_S : s.start.S = s.S := by rw [start]; split <;> rfl
@[simp] theorem start_A : s.start.A = s.A := by rw [start]; split <;> rfl
@[simp] theorem start_J : s.start.J = s.J := by rw [start]; split <;> rfl
@[simp] theorem start_GCTX : s.start.GCTX = s.GCTX := by rw [start]; split <;> rfl
@[simp] theorem start_genTable : s.start.genTable = s.genTable := by rw [start]; split <;> rfl
@[simp] theorem start_IRQ_EN : s.start.IRQ_EN = s.IRQ_EN := by rw [start]; split <;> rfl
@[simp] theorem start_cmdmem : s.start.cmdmem = s.cmdmem := by rw [start]; split <;> rfl
@[simp] theorem start_dmem : s.start.dmem = s.dmem := by rw [start]; split <;> rfl
@[simp] theorem start_powerUps : s.start.powerUps = s.powerUps := by rw [start]; split <;> rfl

/-- What a write to CTRL can be: a soft reset, START, or IRQ_EN alone (10_state.md R37). -/
theorem writeCtrl_cases (v : Word) :
    (v.getLsbD 2 = true ∧ s.writeCtrl v = s.softReset) ∨
    (v.getLsbD 2 = false ∧ v.getLsbD 0 = true ∧ s.writeCtrl v = { s with IRQ_EN := v.getLsbD 1 }.start) ∨
    (v.getLsbD 2 = false ∧ v.getLsbD 0 = false ∧ s.writeCtrl v = { s with IRQ_EN := v.getLsbD 1 }) := by
  rw [writeCtrl]
  cases v.getLsbD 2 <;> cases v.getLsbD 0 <;> simp

end State

/-! ### The control registers (10_state.md R36-R43) -/

theorem hostAccess_word {s : State} {op : BusOp} {off : BitVec 17} {t : WindowTarget}
    (ht : windowTarget off.toNat = t) (hword : off.toNat % 4 = 0) (hmem : t.isMemory = false) :
    s.hostAccess ⟨op, 4, off⟩ = s.honour op t := by
  subst ht
  exact s.hostAccess_eq_honour (BusAccess.not_malformed_of_word hword) hmem

theorem windowTarget_reserved {off : Nat}
    (h : 0x20 ≤ off ∧ off < 0x1000 ∨ 0x2000 ≤ off ∧ off < 0x10000 ∨ 0x14000 ≤ off) : windowTarget off = .reserved := by
  obtain ⟨hlo, hhi⟩ | ⟨hlo, hhi⟩ | hlo := h
  · rw [windowTarget, if_pos hhi]
    repeat rw [if_neg (by omega)]
  · rw [windowTarget_of_ge (by omega), if_neg (by omega), if_pos hhi]
  · rw [windowTarget_of_ge (by omega), if_neg (by omega), if_neg (by omega), if_neg (by omega)]

theorem hostAccess_malformed (s : State) {a : BusAccess} (h : a.bytes ≠ 4 ∨ a.offset.toNat % 4 ≠ 0) :
    s.hostAccess a = s.respond 0#32 true := by
  rw [State.hostAccess, BusAccess.malformed, decide_eq_true h, if_pos rfl]

/-- Settles O58, offset by offset. -/
theorem hostRegisterAccesses : Obligations.HostRegisterAccesses := by
  intro s v
  refine ⟨?_, ?_, ?_, ?_, ?_, ?_, ?_, ?_, ?_, ?_, fun op off hword hoff => ?_, fun a ha => hostAccess_malformed s ha⟩
  · exact hostAccess_word (t := .id) rfl rfl rfl
  · exact hostAccess_word (t := .ctrl) rfl rfl rfl
  · exact hostAccess_word (t := .status) rfl rfl rfl
  · exact hostAccess_word (t := .entry) rfl rfl rfl
  · exact hostAccess_word (t := .pc) rfl rfl rfl
  · exact hostAccess_word (t := .cause) rfl rfl rfl
  · exact hostAccess_word (t := .faultPc) rfl rfl rfl
  · exact hostAccess_word (t := .k) rfl rfl rfl
  · rw [hostAccess_word (t := .entry) rfl rfl rfl, State.honour, State.busWrite,
      BitVec.setWidth_eq_extractLsb' (by decide)]
    rfl
  · simp only [List.forall_mem_cons, List.not_mem_nil, false_imp_iff, implies_true, and_true]
    exact ⟨hostAccess_word (t := .id) rfl rfl rfl, hostAccess_word (t := .pc) rfl rfl rfl,
      hostAccess_word (t := .cause) rfl rfl rfl, hostAccess_word (t := .faultPc) rfl rfl rfl,
      hostAccess_word (t := .k) rfl rfl rfl⟩
  · rw [hostAccess_word (windowTarget_reserved hoff) hword rfl]
    cases op <;> rfl

/-- Settles O54, by the SOFT_RESET and START bits of the write. -/
theorem controlRegisterWrites : Obligations.ControlRegisterWrites := by
  rintro s v t rfl
  rw [State.hostAccess_write_ctrl, hostAccess_word (t := .ctrl) rfl rfl rfl]
  have hword : s.ctrlWord = if s.IRQ_EN = true then 2#32 else 0#32 := by
    rw [State.ctrlWord]
    cases s.IRQ_EN <;> rfl
  have hread : s.honour .read .ctrl = { s with response := ⟨if s.IRQ_EN = true then 2#32 else 0#32, false⟩ } :=
    congrArg (s.respond · false) hword
  obtain ⟨h2, hw⟩ | ⟨h2, h0, hw⟩ | ⟨h2, -, hw⟩ := s.writeCtrl_cases v <;> rw [hw, h2]
  · exact ⟨fun _ => rfl, nofun, nofun, hread⟩
  · rw [h0]
    exact ⟨nofun, fun _ => State.start_IRQ_EN _, nofun, hread⟩
  · exact ⟨nofun, fun _ => rfl, fun _ _ => rfl, hread⟩

/-- The eight bits of STATUS, packed (10_state.md R38). -/
theorem flagBits_getLsbD (b0 b1 b2 b3 b4 b5 b6 b7 : Bool) :
    let w := BitVec.ofNat 32 (flagBit b0 0 + flagBit b1 1 + flagBit b2 2 + flagBit b3 3 + flagBit b4 4 + flagBit b5 5
      + flagBit b6 6 + flagBit b7 7)
    w.getLsbD 0 = b0 ∧ w.getLsbD 1 = b1 ∧ w.getLsbD 2 = b2 ∧ w.getLsbD 3 = b3 ∧ w.getLsbD 4 = b4 ∧ w.getLsbD 5 = b5 ∧
      w.getLsbD 6 = b6 ∧ w.getLsbD 7 = b7 ∧ w.toNat < 256 := by
  revert b0 b1 b2 b3 b4 b5 b6 b7
  decide +kernel

/-- Settles O59. -/
theorem statusAndInterrupt : Obligations.StatusAndInterrupt := by
  intro s v
  obtain ⟨h0, h1, h2, h3, h4, h5, h6, h7, hlt⟩ :=
    flagBits_getLsbD s.busy s.DONE s.FAULT s.C s.GCTX s.ACCERR s.CMDERR s.irq
  refine ⟨hostAccess_word (t := .status) rfl rfl rfl, h0, h1, h2, h3, h4, h5, h6, h7, hlt, ?_, ?_, ?_⟩
  · exact hostAccess_word (t := .status) rfl rfl rfl
  · intro hdone hfault
    rw [hostAccess_word (t := .status) rfl rfl rfl]
    simp [State.honour, State.busWrite, State.writeStatus, State.irq, hdone, hfault]
  · cases hrun : s.run with
    | running => simp [State.start_of_running hrun, State.irq]
    | idle => simp [State.start_of_idle hrun, State.irq]

end Sys2Proof.Machine
end

section
/-! PROOF. What an instruction does, said once: it raises the first fault whose condition holds (60_exceptions.md R146),
or leaves the state of its commit phase: O13, O14, O8. -/

namespace Sys2Proof.Machine

open Sys2Proof.Config

/-! ### The check phase as a sequence of conditions (00_scope.md R15, R16) -/

/-- The check phase of an instruction: the conditions of its causes, in the order of 60_exceptions.md R146. -/
def checkPhase (i : Instr) (s : State) : Except Cause Unit := do
  raiseIf .addr (faultHolds i s .addr)
  raiseIf .operand (faultHolds i s .operand)
  raiseIf .uninit (faultHolds i s .uninit)
  raiseIf .noContext (faultHolds i s .noContext)
  raiseIf .notNormalized (faultHolds i s .notNormalized)
  raiseIf .magnitude (faultHolds i s .magnitude)
  raiseIf .infinity (faultHolds i s .infinity)
  raiseIf .invZero (faultHolds i s .invZero)

/-- The first of a sequence of conditions is the one that is raised. -/
theorem raiseIf_bind (c : Cause) (bad : Bool) {α : Type} (k : Unit → Except Cause α) :
    (raiseIf c bad >>= k) = if bad then .error c else k () := by
  cases bad <;> rfl

theorem checkPhase_eq (i : Instr) (s : State) :
    checkPhase i s = (firstFault i s).elim (.ok ()) .error := by
  have hill : faultHolds i s .illegal = false := rfl
  simp only [checkPhase, firstFault, faultPriority, List.find?, hill, raiseIf_bind]
  repeat' split
  all_goals simp_all

/-! Register reads and checks as conditions. -/

section conditions

variable {α : Type} (s : State) (a : RegIdx)

theorem rdF_bind (k : FReg → Except Cause α) :
    (rdF s a >>= k) = raiseIf .uninit (!s.F[a].valid) >>= fun _ => k s.F[a] := by
  rw [rdF]; cases s.F[a].valid <;> rfl

theorem rdS_bind (k : Nat → Except Cause α) :
    (rdS s a >>= k) = raiseIf .uninit (!s.S[a].valid) >>= fun _ => k s.S[a].v := by
  rw [rdS]; cases s.S[a].valid <;> rfl

theorem rdA_bind (k : Point → Except Cause α) :
    (rdA s a >>= k) = raiseIf .uninit (!s.A[a].valid) >>= fun _ => k s.A[a].pt := by
  rw [rdA]; cases s.A[a].valid <;> rfl

theorem rdJ_bind (k : Point → Except Cause α) :
    (rdJ s a >>= k) = raiseIf .uninit (!s.J[a].valid) >>= fun _ => k s.J[a].pt := by
  rw [rdJ]; cases s.J[a].valid <;> rfl

/-- The coordinates of a point; infinity has none, and nothing reads what stands for them here. -/
def Point.coords : Point → Nat × Nat
  | .inf => (0, 0)
  | .aff x y => (x, y)

theorem coordinates_bind (Q : Point) (k : Nat × Nat → Except Cause α) :
    (coordinates Q >>= k) = raiseIf .infinity (decide (Q = .inf)) >>= fun _ => k Q.coords := by
  cases Q <;> rfl

theorem raiseIf_or (c : Cause) (p q : Bool) (k : Unit → Except Cause α) :
    (raiseIf c (p || q) >>= k) = raiseIf c p >>= fun _ => raiseIf c q >>= k := by
  cases p <;> rfl

theorem raiseIf_never (c : Cause) (k : Unit → Except Cause α) : (raiseIf c false >>= k) = k () := rfl

end conditions

/-! ### The commit phase (00_scope.md R16) -/

/-- The state an instruction leaves when no fault is raised, from the contents of its operands. -/
def commit (i : Instr) (s : State) : State :=
  match i with
  | .halt => s.endRun
  | .jmp t => s.goto t
  | .bt t => if s.C then s.goto t else s.advance
  | .bf t => if s.C then s.advance else s.goto t
  | .setk v => (s.writeK (BitVec.ofNat 12 v)).advance
  | .djnz t => if s.K - 1 = 0 then (s.writeK (s.K - 1)).advance else (s.writeK (s.K - 1)).goto t
  | .nop => s.advance
  | .fld d slot =>
    ((s.writeF d (s.memRead (slotAddr slot) 32) 1 (!fieldOverflow (s.memRead (slotAddr slot) 32))).writeC
      (fieldOverflow (s.memRead (slotAddr slot) 32))).advance
  | .fst a slot => (s.memWrite (slotAddr slot) 32 s.F[a].v).advance
  | .sld d slot =>
    ((s.writeS d (s.memRead (slotAddr slot) 32 % N_ORDER)).writeC
      (scalarOverflow (s.memRead (slotAddr slot) 32))).advance
  | .sst a slot => (s.memWrite (slotAddr slot) 32 s.S[a].v).advance
  | .fmov d a => (s.writeF d s.F[a].v s.F[a].m s.F[a].N).advance
  | .smov d a => (s.writeS d s.S[a].v).advance
  | .fseti d v => (s.writeF d v 1 true).advance
  | .sseti d v => (s.writeS d v).advance
  | .sfromf d a => ((s.writeS d (s.F[a].v % N_ORDER)).writeC (scalarOverflow s.F[a].v)).advance
  | .ffroms d a => (s.writeF d s.S[a].v 1 true).advance
  | .amov d a => (s.writeA d s.A[a].pt).advance
  | .jmov d a => (s.writeJ d s.J[a].pt).advance
  | .fadd d a b => (s.writeF d (s.F[a].v + s.F[b].v) (s.F[a].m + s.F[b].m) false).advance
  | .fneg d a bound => (s.writeF d ((bound + 1) * P_FIELD - s.F[a].v) (bound + 1) false).advance
  | .fmul d a b => (s.writeF d (s.F[a].v * s.F[b].v % P_FIELD) 1 false).advance
  | .fsqr d a => (s.writeF d (s.F[a].v * s.F[a].v % P_FIELD) 1 false).advance
  | .fmulm d a b => (s.writeF d (montP s.F[a].v s.F[b].v) 1 false).advance
  | .fnorm d a | .fnormv d a => (s.writeF d (s.F[a].v % P_FIELD) 1 true).advance
  | .finv d a => (s.writeF d (powMod P_FIELD (s.F[a].v % P_FIELD) (P_FIELD - 2)) 1 false).advance
  | .fsqrt d a =>
    if isQrRoot (s.F[a].v % P_FIELD) then
      ((s.writeF d (fsqrtCand (s.F[a].v % P_FIELD)) 1 false).writeC true).advance
    else (s.writeC false).advance
  | .fisz a => (s.writeC (isZero s.F[a].v)).advance
  | .fisodd a => (s.writeC (isOdd s.F[a].v)).advance
  | .feq a b => (s.writeC (isEqual s.F[a].v s.F[b].v)).advance
  | .flt a b => (s.writeC (isLess s.F[a].v s.F[b].v)).advance
  | .sadd d a b => (s.writeS d ((s.S[a].v + s.S[b].v) % N_ORDER)).advance
  | .sneg d a => (s.writeS d ((N_ORDER - s.S[a].v) % N_ORDER)).advance
  | .smul d a b => (s.writeS d (s.S[a].v * s.S[b].v % N_ORDER)).advance
  | .smulm d a b => (s.writeS d (montN s.S[a].v s.S[b].v)).advance
  | .sinv d a => (s.writeS d (invN s.S[a].v)).advance
  | .sisz a => (s.writeC (isZero s.S[a].v)).advance
  | .seq a b => (s.writeC (isEqual s.S[a].v s.S[b].v)).advance
  | .slt a b => (s.writeC (isLess s.S[a].v s.S[b].v)).advance
  | .shigh a => (s.writeC (isHigh s.S[a].v)).advance
  | .swnaf slot a w => (s.writeBytes (slotAddr slot) (wnafBytes s.S[a].v w)).advance
  | .psetxy d a b => (s.writeA d (.aff (s.F[a].v % P_FIELD) (s.F[b].v % P_FIELD))).advance
  | .psetinf d => (s.writeA d .inf).advance
  | .pldg d => (s.writeA d Point.gen).advance
  | .pgetx d a => (s.writeF d s.A[a].pt.coords.1 1 true).advance
  | .pgety d a => (s.writeF d s.A[a].pt.coords.2 1 true).advance
  | .pvalid a => (s.writeC s.A[a].pt.isValid).advance
  | .pisinf a => (s.writeC (isInfinity s.A[a].pt)).advance
  | .pneg d a => (s.writeA d s.A[a].pt.neg).advance
  | .jsetinf d => (s.writeJ d .inf).advance
  | .jfroma d a => (s.writeJ d s.A[a].pt).advance
  | .jtoa d a => (s.writeA d s.J[a].pt).advance
  | .jisinf a => (s.writeC (isInfinity s.J[a].pt)).advance
  | .jneg d a => (s.writeJ d s.J[a].pt.neg).advance
  | .jdbl d a => (s.writeGroup d s.J[a].pt.onCurve s.J[a].pt.dbl).advance
  | .jadda d a b =>
    (s.writeGroup d (s.J[a].pt.onCurve && s.A[b].pt.onCurve) (s.J[a].pt.add s.A[b].pt)).advance
  | .jadd d a b =>
    (s.writeGroup d (s.J[a].pt.onCurve && s.J[b].pt.onCurve) (s.J[a].pt.add s.J[b].pt)).advance
  | .gctx => s.buildContext.advance
  | .pmul d a b => (s.writeGroup d s.A[b].pt.onCurve (s.A[b].pt.mul s.S[a].v)).advance
  | .pmulg d a => (s.writeJ d (Point.gen.mul s.S[a].v)).advance
  | .pmulgq d a b c => (s.writeGroup d s.A[c].pt.onCurve (combined s.S[a].v s.S[b].v s.A[c].pt)).advance
  | .esign slot h d k => (s.writeSignature slot (ecdsaSign s.S[h].v s.S[d].v s.S[k].v)).advance
  | .everify q h slot =>
    (s.writeC (ecdsaVerify s.A[q].pt s.S[h].v (s.memRead (slotAddr slot) 32)
      (s.memRead (slotAddr slot + 32) 32))).advance
  | .erecover d h slot =>
    (s.writeRecovered d (ecdsaRecover s.S[h].v (s.memRead (slotAddr slot) 32) (s.memRead (slotAddr slot + 32) 32)
      (s.readByte (slotAddr slot + 64)).toNat)).advance

/-- An instruction runs its check phase, then its commit phase. -/
theorem exec_eq_settle (i : Instr) (s : State) :
    exec i s = settle s (checkPhase i s >>= fun _ => .ok (commit i s)) := by
  cases i
  all_goals
    simp only [exec, execHalt, execJmp, execBt, execBf, execSetk, execDjnz, execNop, execFld, execFst, execSld, execSst,
      execFmov, execSmov, execAmov, execJmov, execFseti, execSseti, execSfromf, execFfroms, execFadd, execFneg,
      execFmul, execFsqr, execFmulm, execFnorm, execFnormv, execFinv, execFsqrt, execFisz, execFisodd, execFeq,
      execFlt, execSadd, execSneg, execSmul, execSmulm, execSinv, execSisz, execSeq, execSlt, execShigh,
      execSwnaf, execPsetxy, execPsetinf, execPldg, execPgetx, execPgety, execPvalid, execPisinf, execPneg,
      execJsetinf, execJfroma, execJtoa, execJisinf, execJneg, execJdbl, execJadda, execJadd, execGctx,
      execPmul, execPmulg, execPmulgq, execEsign, execEverify, execErecover, checkSlot, checkBound, checkWidth,
      checkNormalized, checkMulMagnitude, checkContext, rdF_bind, rdS_bind, rdA_bind, rdJ_bind, coordinates_bind,
      pure_eq_ok]
    simp only [checkPhase, faultHolds, slotAndLimit, registersRead, State.validBit, readsContext, normalizedOperands,
      multiplicativeOperands, Option.any, List.any, Bool.or_false, Bool.false_and, Bool.true_and, raiseIf_or,
      raiseIf_never, bind_assoc, commit]
  all_goals rfl

section exec

variable {i : Instr} {s t : State} {c : Cause}

theorem exec_of_fault (h : firstFault i s = some c) : exec i s = .next (s.takeFault c) := by
  rw [exec_eq_settle, checkPhase_eq, h]
  rfl

theorem exec_of_no_fault (h : firstFault i s = none) : exec i s = .next (commit i s) := by
  rw [exec_eq_settle, checkPhase_eq, h]
  rfl

/-- Everything an instruction can do, with the reason. -/
theorem exec_cases (h : exec i s = .next t) :
    (∃ c, firstFault i s = some c ∧ t = s.takeFault c) ∨ (firstFault i s = none ∧ t = commit i s) := by
  cases hf : firstFault i s with
  | some c => rw [exec_of_fault hf] at h; cases h; exact .inl ⟨c, rfl, rfl⟩
  | none => rw [exec_of_no_fault hf] at h; cases h; exact .inr ⟨rfl, rfl⟩

theorem exec_total (i : Instr) (s : State) : ∃ t, exec i s = .next t := by
  cases hf : firstFault i s with
  | some c => exact ⟨_, exec_of_fault hf⟩
  | none => exact ⟨_, exec_of_no_fault hf⟩

end exec

/-- Settles O8: the check phase either raises a fault, which is a next state, or passes. -/
theorem everyStepHasANextState : Obligations.EveryStepHasANextState := by
  intro s
  obtain ⟨-, hstep⟩ | ⟨a, rest, -, hstep⟩ | ⟨rest, -, hstep⟩ := step_cases s <;> rw [hstep]
  · obtain ⟨-, he⟩ | ⟨-, i, -, he⟩ | ⟨-, e, -, he⟩ := engineStep_cases s.popMove <;> rw [he]
    · exact ⟨_, rfl⟩
    · exact exec_total i _
    · exact ⟨_, rfl⟩
  · exact ⟨_, rfl⟩
  · exact ⟨_, rfl⟩

/-! ### The report of a fault (60_exceptions.md R143-R146) -/

/-- No commit phase writes FAULT, CAUSE or FAULT_PC. -/
theorem commit_faultRecord (i : Instr) (s : State) :
    (commit i s).FAULT = s.FAULT ∧ (commit i s).CAUSE = s.CAUSE ∧ (commit i s).FAULT_PC = s.FAULT_PC := by
  cases i <;> simp [commit] <;> split <;> simp

/-- Only HALT ends the run in its commit phase. -/
theorem commit_run {i : Instr} (hi : i ≠ .halt) (s : State) : (commit i s).run = s.run := by
  cases i <;> simp [commit] at hi ⊢ <;> split <;> simp

/-- Settles O13: the check phase is the sequence of the causes' conditions, in the order of R146. -/
theorem theFirstFaultInPriorityIsReported : Obligations.TheFirstFaultInPriorityIsReported := by
  refine ⟨fun s e hrun hmove he => step_of_reject hmove hrun he, fun i s c => exec_of_fault, fun i s hnone => ?_, rfl⟩
  obtain ⟨hfault, hcause, hpc⟩ := commit_faultRecord i s
  refine ⟨_, exec_of_no_fault hnone, hfault, hcause, hpc, ?_⟩
  by_cases hi : i = .halt
  · exact .inr hi
  · exact .inl (commit_run hi s)

theorem faultHolds_of_firstFault {i : Instr} {s : State} {c : Cause} (h : firstFault i s = some c) :
    faultHolds i s c = true := List.find?_some h

/-- A cause whose condition can hold is one that the table of R145 lists for the instruction. -/
theorem mem_mayRaise_of_faultHolds {i : Instr} {s : State} {c : Cause} (h : faultHolds i s c = true) :
    c ∈ mayRaise i := by
  cases c with
  | none | illegal => cases h
  | addr => cases i <;> simp_all [faultHolds, slotAndLimit, mayRaise]
  | operand => cases i <;> simp_all [faultHolds, mayRaise]
  | uninit => cases i <;> simp_all [faultHolds, registersRead, mayRaise]
  | noContext => cases i <;> simp_all [faultHolds, readsContext, mayRaise]
  | notNormalized => cases i <;> simp_all [faultHolds, normalizedOperands, mayRaise]
  | magnitude => cases i <;> simp_all [faultHolds, multiplicativeOperands, mayRaise]
  | infinity => cases i <;> simp_all [faultHolds, mayRaise]
  | invZero => cases i <;> simp_all [faultHolds, mayRaise]

/-- Settles O14: the fault that is raised is one whose condition holds, so it is a cause of the instruction's own. -/
theorem faultsAreEnteredPrecisely : Obligations.FaultsAreEnteredPrecisely := fun _ _ _ h =>
  ⟨mem_mayRaise_of_faultHolds (faultHolds_of_firstFault h), _, exec_of_fault h, keepsMemory_of_eq rfl rfl rfl, rfl⟩

end Sys2Proof.Machine
end

section
/-! PROOF. The invariants (10_state.md R24-R32, 60_exceptions.md R150): O9, O10, O11. -/

namespace Sys2Proof.Machine

open Sys2Proof.Config

/-! ### The data invariant -/

/-- No cause's condition holds when no fault is reported. -/
theorem faultHolds_of_no_fault {i : Instr} {s : State} (h : firstFault i s = none) (c : Cause) :
    faultHolds i s c = false := by
  have hall := List.find?_eq_none.1 h
  cases c with
  | none | illegal => rfl
  | addr | operand | uninit | noContext | notNormalized | magnitude | infinity | invZero =>
    simpa using hall _ (by simp [faultPriority])

theorem slot_le_of_no_fault {i : Instr} {s : State} (h : firstFault i s = none) {slot limit : Nat}
    (hi : slotAndLimit i = some (slot, limit)) : slot ≤ limit := by
  have := faultHolds_of_no_fault h .addr
  simpa [faultHolds, hi] using this

theorem validBit_of_no_fault {i : Instr} {s : State} (h : firstFault i s = none) {r : RegRef}
    (hr : r ∈ registersRead i) : s.validBit r = true := by
  have := faultHolds_of_no_fault h .uninit
  simp only [faultHolds, List.any_eq_false, Bool.not_eq_true'] at this
  simpa using this r hr

/-! What each way of writing a register keeps (10_state.md R24-R28). -/

/-- A residue is in the bounds of a field register, normalized or not. -/
theorem bounded_of_lt {v : Nat} (hv : v < P_FIELD) (N : Bool) : FReg.bounded ⟨v, 1, N, true⟩ := by
  have hp : P_FIELD < 1 * 2 ^ 256 := by decide
  exact ⟨le_rfl, Nat.le_of_ble_eq_true rfl, hv.trans hp, fun _ => ⟨hv, rfl⟩⟩

/-- What FLD loads is in bounds, and normalized when it is below p. -/
theorem bounded_memRead (s : State) (addr : Nat) :
    FReg.bounded ⟨s.memRead addr 32, 1, !fieldOverflow (s.memRead addr 32), true⟩ := by
  have hlt := memRead_lt s addr 32
  refine ⟨le_rfl, Nat.le_of_ble_eq_true rfl, hlt.trans_eq (by norm_num), fun hN => ⟨?_, rfl⟩⟩
  simpa [fieldOverflow] using hN

theorem bounded_add {x y : FReg} (hx : x.bounded) (hy : y.bounded) (hm : x.m + y.m ≤ 32) :
    FReg.bounded ⟨x.v + y.v, x.m + y.m, false, true⟩ := by
  obtain ⟨hx1, -, hxv, -⟩ := hx
  obtain ⟨-, -, hyv, -⟩ := hy
  exact ⟨by dsimp only; omega, hm, by rw [add_mul]; dsimp only; omega, nofun⟩

theorem bounded_neg (v : Nat) {bound : Nat} (hbound : bound ≤ 31) :
    FReg.bounded ⟨(bound + 1) * P_FIELD - v, bound + 1, false, true⟩ := by
  have hp : (bound + 1) * P_FIELD < (bound + 1) * 2 ^ 256 := Nat.mul_lt_mul_of_pos_left (by decide) (by omega)
  exact ⟨by dsimp only; omega, by dsimp only; omega, (Nat.sub_le _ _).trans_lt hp, nofun⟩

theorem coords_lt {Q : Point} (h : Q.reduced = true) : Q.coords.1 < P_FIELD ∧ Q.coords.2 < P_FIELD := by
  cases Q with
  | inf => exact ⟨P_FIELD_pos, P_FIELD_pos⟩
  | aff x y =>
    simp only [Point.reduced, Bool.and_eq_true, decide_eq_true_iff] at h
    exact h

theorem slot_fits {slot limit len : Nat} (hslot : slot ≤ limit) (hlimit : 32 * limit + len ≤ 4096) :
    slotAddr slot + len ≤ DMEM_BYTES := by
  rw [slotAddr, SLOT_BYTES, DMEM_BYTES]; omega

theorem DataInv.writeSignature {s : State} (hs : DataInv s) {slot : Nat} (hslot : slot ≤ 125) (sig : Option Signature) :
    DataInv (s.writeSignature slot sig) := by
  cases sig with
  | none => exact hs.writeC _
  | some sig =>
    exact (hs.writeBytes (by rw [Signature.bytes_length]; exact slot_fits hslot (by decide))).writeC _

theorem recoverKey_reduced {hv r sv : Nat} {R Q : Point} (hR : R.reduced = true) (h : recoverKey hv r sv R = some Q) :
    Q.reduced = true := by
  have hred : (combined ((N_ORDER - hv) * invN r % N_ORDER) (sv * invN r % N_ORDER) R).reduced = true :=
    combined_reduced hR _ _
  unfold recoverKey at h
  generalize combined ((N_ORDER - hv) * invN r % N_ORDER) (sv * invN r % N_ORDER) R = P at h hred
  cases P with
  | inf => cases h
  | aff x y =>
    cases h
    exact hred

theorem ecdsaRecover_reduced {hv r sv rid : Nat} {Q : Point} (h : ecdsaRecover hv r sv rid = some Q) :
    Q.reduced = true := by
  unfold ecdsaRecover at h
  split_ifs at h with _ _ hx
  split at h
  · cases h
  · rename_i R hlift
    exact recoverKey_reduced (liftX_spec (by omega) hlift).2 h

theorem DataInv.writeRecovered {s : State} (hs : DataInv s) (d : RegIdx) {key : Option Point}
    (hkey : ∀ Q, key = some Q → Q.reduced = true) : DataInv (s.writeRecovered d key) := by
  cases key with
  | none => exact hs.writeC _
  | some Q => exact (hs.writeA d (hkey Q rfl)).writeC _

/-- The commit phase of an instruction of the machine keeps the data invariant. -/
theorem commit_dataInv {i : Instr} {s : State} (hs : DataInv s) (hwf : i.wellFormed = true)
    (h : firstFault i s = none) : DataInv (commit i s) := by
  have hF : ∀ a, .F a ∈ registersRead i → s.F[a].bounded := fun a ha => hs.field a (validBit_of_no_fault h ha)
  have hS : ∀ a, .S a ∈ registersRead i → s.S[a].v < N_ORDER := fun a ha => hs.scalar a (validBit_of_no_fault h ha)
  have hA : ∀ a, .A a ∈ registersRead i → s.A[a].pt.reduced = true :=
    fun a ha => hs.affine a (validBit_of_no_fault h ha)
  have hJ : ∀ a, .J a ∈ registersRead i → s.J[a].pt.reduced = true :=
    fun a ha => hs.jacobian a (validBit_of_no_fault h ha)
  have hmodP : ∀ v, v % P_FIELD < P_FIELD := fun v => Nat.mod_lt v P_FIELD_pos
  have hmodN : ∀ v, v % N_ORDER < N_ORDER := fun v => Nat.mod_lt v N_ORDER_pos
  have hsmall : ∀ v, fitsImm12 v = true → v < N_ORDER ∧ v < P_FIELD := fun v hv =>
    have hv : v < 4096 := of_decide_eq_true hv
    ⟨hv.trans (by decide), hv.trans (by decide)⟩
  have hNP : N_ORDER < P_FIELD := by decide
  cases i with
  -- control
  | halt => exact hs.endRun
  | jmp t => exact hs.goto t
  | bt t =>
    rw [commit]
    split
    · exact hs.goto t
    · exact hs.advance
  | bf t =>
    rw [commit]
    split
    · exact hs.advance
    · exact hs.goto t
  | setk v => exact (hs.writeK _).advance
  | djnz t =>
    rw [commit]
    split
    · exact (hs.writeK _).advance
    · exact (hs.writeK _).goto t
  | nop => exact hs.advance
  -- loads and stores
  | fld d slot => exact ((hs.writeF d (bounded_memRead s _)).writeC _).advance
  | sld d slot => exact ((hs.writeS d (hmodN _)).writeC _).advance
  | fst a slot | sst a slot =>
    refine (hs.writeBytes ?_).advance
    rw [bytesBE_length]
    exact slot_fits (slot_le_of_no_fault h rfl) (by decide)
  | swnaf slot a w =>
    refine (hs.writeBytes ?_).advance
    rw [wnafBytes_length]
    exact slot_fits (slot_le_of_no_fault h rfl) (by decide)
  | esign slot hh d k => exact (hs.writeSignature (slot_le_of_no_fault h rfl) _).advance
  -- field registers
  | fmov d a => exact (hs.writeF d (hF a (by simp [registersRead]))).advance
  | fseti d v => exact (hs.writeF d (bounded_of_lt (hsmall v hwf).2 _)).advance
  | ffroms d a => exact (hs.writeF d (bounded_of_lt ((hS a (by simp [registersRead])).trans hNP) _)).advance
  | fadd d a b =>
    refine (hs.writeF d (bounded_add (hF a (by simp [registersRead])) (hF b (by simp [registersRead])) ?_)).advance
    have := faultHolds_of_no_fault h .magnitude
    simpa [faultHolds] using this
  | fneg d a bound =>
    refine (hs.writeF d (bounded_neg _ ?_)).advance
    have := faultHolds_of_no_fault h .operand
    simp only [faultHolds, decide_eq_false_iff_not] at this
    omega
  | fmul d a b => exact (hs.writeF d (bounded_of_lt (hmodP _) _)).advance
  | fmulm d a b => exact (hs.writeF d (bounded_of_lt (montP_lt _ _) _)).advance
  | fsqr d a | fnorm d a | fnormv d a => exact (hs.writeF d (bounded_of_lt (hmodP _) _)).advance
  | finv d a => exact (hs.writeF d (bounded_of_lt (powMod_lt P_FIELD_pos _ _) _)).advance
  | fsqrt d a =>
    rw [commit]
    split
    · exact ((hs.writeF d (bounded_of_lt (fsqrtCand_lt _) _)).writeC _).advance
    · exact (hs.writeC _).advance
  | pgetx d a => exact (hs.writeF d (bounded_of_lt (coords_lt (hA a (by simp [registersRead]))).1 _)).advance
  | pgety d a => exact (hs.writeF d (bounded_of_lt (coords_lt (hA a (by simp [registersRead]))).2 _)).advance
  -- scalar registers
  | smov d a => exact (hs.writeS d (hS a (by simp [registersRead]))).advance
  | sseti d v => exact (hs.writeS d (hsmall v hwf).1).advance
  | sfromf d a => exact ((hs.writeS d (hmodN _)).writeC _).advance
  | sadd d a b | smul d a b => exact (hs.writeS d (hmodN _)).advance
  | sneg d a => exact (hs.writeS d (hmodN _)).advance
  | smulm d a b => exact (hs.writeS d (montN_lt _ _)).advance
  | sinv d a => exact (hs.writeS d (invN_lt _)).advance
  -- affine registers
  | amov d a => exact (hs.writeA d (hA a (by simp [registersRead]))).advance
  | psetxy d a b => exact (hs.writeA d (by simp [Point.reduced, hmodP])).advance
  | psetinf d => exact (hs.writeA d rfl).advance
  | pldg d => exact (hs.writeA d Point.gen_reduced).advance
  | pneg d a => exact (hs.writeA d (Point.neg_reduced (hA a (by simp [registersRead])))).advance
  | jtoa d a => exact (hs.writeA d (hJ a (by simp [registersRead]))).advance
  | erecover d hh slot => exact (hs.writeRecovered d fun _ => ecdsaRecover_reduced).advance
  -- Jacobian registers
  | jmov d a => exact (hs.writeJ d (hJ a (by simp [registersRead]))).advance
  | jsetinf d => exact (hs.writeJ d rfl).advance
  | jfroma d a => exact (hs.writeJ d (hA a (by simp [registersRead]))).advance
  | jneg d a => exact (hs.writeJ d (Point.neg_reduced (hJ a (by simp [registersRead])))).advance
  | jdbl d a => exact (hs.writeGroup d _ (Point.dbl_reduced _)).advance
  | jadda d a b =>
    exact (hs.writeGroup d _ (Point.add_reduced (hJ a (by simp [registersRead]))
      (hA b (by simp [registersRead])))).advance
  | jadd d a b =>
    exact (hs.writeGroup d _ (Point.add_reduced (hJ a (by simp [registersRead]))
      (hJ b (by simp [registersRead])))).advance
  | pmul d a b => exact (hs.writeGroup d _ (Point.mul_reduced (hA b (by simp [registersRead])) _)).advance
  | pmulg d a => exact (hs.writeJ d (Point.mul_reduced Point.gen_reduced _)).advance
  | pmulgq d a b c => exact (hs.writeGroup d _ (combined_reduced (hA c (by simp [registersRead])) _ _)).advance
  -- C and the context
  | gctx => exact hs.buildContext.advance
  | fisz | fisodd | feq | flt | sisz | seq | slt | shigh | pvalid | pisinf | jisinf | everify =>
    exact (hs.writeC _).advance

theorem exec_dataInv {i : Instr} {s t : State} (hs : DataInv s) (hwf : i.wellFormed = true) (h : exec i s = .next t) :
    DataInv t := by
  obtain ⟨c, -, rfl⟩ | ⟨hnone, rfl⟩ := exec_cases h
  · exact hs.takeFault c
  · exact commit_dataInv hs hwf hnone

theorem reset_dataInv : DataInv State.reset := by
  refine ⟨fun i h => ?_, fun i h => ?_, fun i h => ?_, fun i h => ?_, rfl, rfl, nofun⟩ <;>
    simp [State.reset, FReg.unwritten, SReg.unwritten, PReg.unwritten] at h

namespace DataInv

variable {s : State} (hs : DataInv s)

include hs

theorem popMove : DataInv s.popMove := hs.congr rfl rfl rfl rfl rfl rfl rfl rfl

theorem withInputs (moves : List Move) : DataInv (s.withInputs moves) := hs.congr rfl rfl rfl rfl rfl rfl rfl rfl

theorem respond (data : Word) (error : Bool) : DataInv (s.respond data error) :=
  hs.congr rfl rfl rfl rfl rfl rfl rfl rfl

theorem softReset : DataInv s.softReset :=
  ⟨reset_dataInv.field, reset_dataInv.scalar, reset_dataInv.affine, reset_dataInv.jacobian, hs.dmem, hs.cmdmem, nofun⟩

theorem start : DataInv s.start := hs.congr s.start_F s.start_S s.start_A s.start_J s.start_dmem s.start_cmdmem
  s.start_GCTX s.start_genTable

theorem writeCtrl (v : Word) : DataInv (s.writeCtrl v) := by
  have hirq : DataInv { s with IRQ_EN := v.getLsbD 1 } := hs.congr rfl rfl rfl rfl rfl rfl rfl rfl
  obtain ⟨-, hw⟩ | ⟨-, -, hw⟩ | ⟨-, -, hw⟩ := s.writeCtrl_cases v <;> rw [hw]
  · exact hs.softReset
  · exact hirq.start
  · exact hirq

theorem hostAccess (a : BusAccess) : DataInv (s.hostAccess a) := by
  have heffect := hostAccess_effect s a
  generalize s.hostAccess a = t at heffect
  cases heffect with
  | answer _ data error => exact hs.respond data error
  | dropped => exact (hs.congr rfl rfl rfl rfl rfl rfl rfl rfl : DataInv { s with ACCERR := true }).respond _ _
  | ctrl v => exact (hs.writeCtrl v).respond _ _
  | status _ v => exact (hs.congr rfl rfl rfl rfl rfl rfl rfl rfl : DataInv (s.writeStatus v)).respond _ _
  | entry _ e => exact (hs.congr rfl rfl rfl rfl rfl rfl rfl rfl : DataInv { s with ENTRY := e }).respond _ _
  | dmem _ lo bs hfit => exact (hs.writeBytes hfit).respond _ _
  | cmdmem _ j w hfit => exact (hs.writeCmd hfit).respond _ _

end DataInv

theorem hardReset_dataInv (s : State) : DataInv s.hardReset := reset_dataInv.congr rfl rfl rfl rfl rfl rfl rfl rfl

/-- Settles O10: each move keeps the invariant, and what the engine runs is a well-formed instruction. -/
theorem everyStepKeepsTheDataInvariant : Obligations.EveryStepKeepsTheDataInvariant := by
  intro s t hs h
  cases step_effect h with
  | idle => exact hs.popMove
  | exec _ _ hi ht => exact exec_dataInv hs.popMove (decode_wellFormed hi) ht
  | illegal => exact hs.popMove.takeFault _
  | host => exact (hs.withInputs _).hostAccess _
  | hardReset => exact hardReset_dataInv _

/-! ### The run invariant -/

/-- Only HALT sets DONE. -/
theorem commit_done {i : Instr} (hi : i ≠ .halt) (s : State) : (commit i s).DONE = s.DONE := by
  cases i <;> simp [commit] at hi ⊢ <;> split <;> simp

namespace RunInv

variable {s t : State}

/-- The invariant is about the run state, the flags and the record of a fault only; pc counts after a fault. -/
theorem congr (h : RunInv s) (hrun : t.run = s.run) (hdone : t.DONE = s.DONE) (hfault : t.FAULT = s.FAULT)
    (hcause : t.CAUSE = s.CAUSE) (hfpc : t.FAULT_PC = s.FAULT_PC) (hpc : s.FAULT = true → t.pc = s.pc) : RunInv t := by
  obtain ⟨h1, h2, h3, h4⟩ := h
  refine ⟨by rwa [hdone, hfault], by rwa [hrun, hdone, hfault, hcause, hfpc], by rwa [hdone, hcause, hfpc], ?_⟩
  rw [hfault, hcause, hfpc]
  exact fun hf => hpc hf ▸ h4 hf

/-- A state as after START or a reset: no DONE, no FAULT, no cause. -/
theorem of_clear (hdone : s.DONE = false) (hfault : s.FAULT = false) (hcause : s.CAUSE = .none)
    (hfpc : s.FAULT_PC = 0#12) : RunInv s := by
  refine ⟨?_, fun _ => ⟨hdone, hfault, hcause, hfpc⟩, ?_, ?_⟩ <;> simp [hdone, hfault]

/-- A running engine that takes a fault. -/
theorem takeFault (h : RunInv s) (hrun : s.run = .running) {c : Cause} (hc : c ≠ .none) : RunInv (s.takeFault c) := by
  obtain ⟨hdone, -, -, -⟩ := h.running hrun
  refine ⟨?_, nofun, ?_, fun _ => ⟨hc, rfl⟩⟩ <;> simp [hdone]

theorem endRun (h : RunInv s) (hrun : s.run = .running) : RunInv s.endRun := by
  obtain ⟨-, hfault, hcause, hfpc⟩ := h.running hrun
  refine ⟨?_, nofun, fun _ => ⟨hcause, hfpc⟩, ?_⟩ <;> simp [hfault]

theorem popMove (h : RunInv s) : RunInv s.popMove := h.congr rfl rfl rfl rfl rfl fun _ => rfl

theorem withInputs (h : RunInv s) (moves : List Move) : RunInv (s.withInputs moves) :=
  h.congr rfl rfl rfl rfl rfl fun _ => rfl

theorem respond (h : RunInv s) (data : Word) (error : Bool) : RunInv (s.respond data error) :=
  h.congr rfl rfl rfl rfl rfl fun _ => rfl

theorem start (h : RunInv s) : RunInv s.start := by
  cases hrun : s.run with
  | running => rw [State.start_of_running hrun]; exact h.congr rfl rfl rfl rfl rfl fun _ => rfl
  | idle => rw [State.start_of_idle hrun]; exact of_clear rfl rfl rfl rfl

theorem softReset (s : State) : RunInv s.softReset := of_clear rfl rfl rfl rfl

theorem hardReset (s : State) : RunInv s.hardReset := of_clear rfl rfl rfl rfl

theorem writeCtrl (h : RunInv s) (v : Word) : RunInv (s.writeCtrl v) := by
  have hirq : RunInv { s with IRQ_EN := v.getLsbD 1 } := h.congr rfl rfl rfl rfl rfl fun _ => rfl
  obtain ⟨-, hw⟩ | ⟨-, -, hw⟩ | ⟨-, -, hw⟩ := s.writeCtrl_cases v <;> rw [hw]
  · exact softReset s
  · exact hirq.start
  · exact hirq

/-- Clearing DONE or FAULT keeps what is said of the ones that stay. -/
theorem writeStatus (h : RunInv s) (v : Word) : RunInv (s.writeStatus v) := by
  obtain ⟨h1, h2, h3, h4⟩ := h
  constructor <;> simp_all [State.writeStatus]

theorem hostAccess (h : RunInv s) (a : BusAccess) : RunInv (s.hostAccess a) := by
  have heffect := hostAccess_effect s a
  generalize s.hostAccess a = t at heffect
  cases heffect with
  | ctrl v => exact (h.writeCtrl v).respond _ _
  | status _ v => exact (h.writeStatus v).respond _ _
  | answer | dropped | entry | dmem | cmdmem => exact h.congr rfl rfl rfl rfl rfl fun _ => rfl

/-- An instruction of a running engine: a fault or HALT ends the run, everything else goes on. -/
theorem exec {i : Instr} (h : RunInv s) (hrun : s.run = .running) (ht : exec i s = .next t) : RunInv t := by
  obtain ⟨c, hc, rfl⟩ | ⟨-, rfl⟩ := exec_cases ht
  · refine h.takeFault hrun fun h0 => ?_
    subst h0
    exact none_not_mem_mayRaise i (mem_mayRaise_of_faultHolds (faultHolds_of_firstFault hc))
  · by_cases hi : i = .halt
    · subst hi
      exact h.endRun hrun
    · obtain ⟨hfault, hcause, hfpc⟩ := commit_faultRecord i s
      refine h.congr (commit_run hi s) (commit_done hi s) hfault hcause hfpc fun hf => ?_
      rw [(h.running hrun).2.1] at hf
      cases hf

end RunInv

/-- Settles O11: only START, HALT, a fault, a reset and a write to STATUS touch what the invariant is about. -/
theorem everyStepKeepsTheRunInvariant : Obligations.EveryStepKeepsTheRunInvariant := by
  intro s t hs h
  cases step_effect h with
  | idle => exact hs.popMove
  | exec _ hrun _ ht => exact hs.popMove.exec hrun ht
  | illegal _ hrun => exact hs.popMove.takeFault hrun nofun
  | host => exact (hs.withInputs _).hostAccess _
  | hardReset => exact RunInv.hardReset _

/-- Settles O9. -/
theorem resetMeetsTheInvariants : Obligations.ResetMeetsTheInvariants :=
  ⟨reset_dataInv, RunInv.of_clear rfl rfl rfl rfl⟩

end Sys2Proof.Machine
end

section
/-! PROOF. What no instruction, and no step, does besides its effect (10_state.md R23-R34, 20_memory.md R46-R62):
O15 to O22. -/

namespace Sys2Proof.Machine

open Sys2Proof.Config

/-! ### C and K (10_state.md R30, R31) -/

/-- Settles O15, by the effects an instruction can have. -/
theorem flagAndCounterHaveListedWriters : Obligations.FlagAndCounterHaveListedWriters := by
  intro i s t h
  cases exec_effect h with
  | setk v => exact ⟨fun hC => absurd rfl hC, fun _ => .inl ⟨v, rfl⟩⟩
  | djnzOn tgt | djnzBack tgt => exact ⟨fun hC => absurd rfl hC, fun _ => .inr ⟨tgt, rfl⟩⟩
  | sign | recover => exact ⟨fun _ => rfl, fun hK => absurd (by simp) hK⟩
  | fieldFlag _ _ _ _ _ _ _ hflag | scalarFlag _ _ _ _ _ hflag | flag _ _ hflag =>
    exact ⟨fun _ => hflag, fun hK => absurd rfl hK⟩
  | group => exact ⟨fun hC => absurd (by simp) hC, fun hK => absurd (by simp) hK⟩
  | fault | halt | branch | advance | field | scalar | affine | jacobian | store | context =>
    exact ⟨fun hC => absurd rfl hC, fun hK => absurd rfl hK⟩

/-! ### Registers (10_state.md R23-R28) -/

/-- Settles O17. -/
theorem normalizedFlagHasListedWriters : Obligations.NormalizedFlagHasListedWriters := by
  intro i s t j h hne hN
  have same : ∀ {d : RegIdx} {v m : Nat} {N : Bool}, (s.writeF d v m N).F[j] ≠ s.F[j] → j = d := fun hne => by
    by_contra hj
    exact hne (s.writeF_other _ _ _ _ _ hj)
  cases exec_effect h with
  | field _ d v m N hdest hwrites =>
    obtain rfl := same hne
    obtain ⟨hlist, hfld, hfmov⟩ := hwrites (by simpa using hN)
    exact ⟨hlist, hdest, fun d slot hi => absurd hi (hfld d slot), hfmov⟩
  | fieldFlag _ d v m N b hdest _ hwrites =>
    obtain rfl := same hne
    obtain ⟨hlist, hfld, hfmov⟩ := hwrites (by simpa using hN)
    exact ⟨hlist, hdest, hfld, fun d a hi => absurd hi (hfmov d a)⟩
  | group | sign | recover => exact absurd (by simp) hne
  | fault | halt | branch | advance | setk | djnzOn | djnzBack | scalar | scalarFlag | affine | jacobian | flag
  | store | context => exact absurd rfl hne

theorem SameRegister.validBit {s t : State} {r : RegRef} (h : SameRegister s t r) : t.validBit r = s.validBit r := by
  cases r with
  | F i => exact congrArg FReg.valid h
  | S i => exact congrArg SReg.valid h
  | A i => exact congrArg PReg.valid h
  | J i => exact congrArg PReg.valid h

/-- No register changes but the destination, if there is one, and no valid bit falls. -/
structure WritesOnly (d : Option RegRef) (s t : State) : Prop where
  other : ∀ r, d ≠ some r → SameRegister s t r
  keepsValid : ∀ r, s.validBit r = true → t.validBit r = true

namespace WritesOnly

variable {s t u : State}

/-- The destination is written, every other register stays. -/
theorem of_written {r : RegRef} (hother : ∀ r', r' ≠ r → SameRegister s t r') (hr : t.validBit r = true) :
    WritesOnly (some r) s t := by
  refine ⟨fun r' hne => hother r' fun h => hne (congrArg some h.symm), fun r' hr' => ?_⟩
  by_cases h : r' = r
  · rwa [h]
  · exact (hother r' h).validBit.trans hr'

/-- What an update beside the registers leaves. -/
theorem of_files_eq {d : Option RegRef} (h : WritesOnly d s t) (hF : u.F = t.F) (hS : u.S = t.S) (hA : u.A = t.A)
    (hJ : u.J = t.J) : WritesOnly d s u := by
  have hsame : ∀ r, SameRegister t u r := fun r => by cases r <;> simp [SameRegister, hF, hS, hA, hJ]
  refine ⟨fun r hr => ?_, fun r hr => (hsame r).validBit.trans (h.keepsValid r hr)⟩
  have h1 := h.other r hr
  have h2 := hsame r
  cases r with
  | F | S | A | J => exact h2.trans h1

theorem refl (d : Option RegRef) (s : State) : WritesOnly d s s :=
  ⟨fun r _ => by cases r <;> rfl, fun _ => id⟩

variable (s) (d : RegIdx)

theorem writeF (v m : Nat) (N : Bool) : WritesOnly (some (.F d)) s (s.writeF d v m N) := by
  refine of_written (fun r hr => ?_) (congrArg FReg.valid (s.writeF_same d v m N))
  cases r with
  | F j => exact s.writeF_other _ _ _ _ _ fun h => hr (congrArg _ h)
  | S | A | J => rfl

theorem writeS (v : Nat) : WritesOnly (some (.S d)) s (s.writeS d v) := by
  refine of_written (fun r hr => ?_) (congrArg SReg.valid (s.writeS_same d v))
  cases r with
  | S j => exact s.writeS_other _ _ _ fun h => hr (congrArg _ h)
  | F | A | J => rfl

theorem writeA (Q : Point) : WritesOnly (some (.A d)) s (s.writeA d Q) := by
  refine of_written (fun r hr => ?_) (congrArg PReg.valid (s.writeA_same d Q))
  cases r with
  | A j => exact s.writeA_other _ _ _ fun h => hr (congrArg _ h)
  | F | S | J => rfl

theorem writeJ (Q : Point) : WritesOnly (some (.J d)) s (s.writeJ d Q) := by
  refine of_written (fun r hr => ?_) (congrArg PReg.valid (s.writeJ_same d Q))
  cases r with
  | J j => exact s.writeJ_other _ _ _ fun h => hr (congrArg _ h)
  | F | S | A => rfl

theorem writeGroup (known : Bool) (Q : Point) : WritesOnly (some (.J d)) s (s.writeGroup d known Q) := by
  cases known with
  | false => exact (writeJ s d (drawnPoint s.draws)).of_files_eq rfl rfl rfl rfl
  | true => exact writeJ s d Q

theorem writeRecovered (key : Option Point) : WritesOnly (some (.A d)) s (s.writeRecovered d key) := by
  cases key with
  | none => exact (refl _ s).of_files_eq rfl rfl rfl rfl
  | some Q => exact (writeA s d Q).of_files_eq rfl rfl rfl rfl

end WritesOnly

theorem exec_writesOnly {i : Instr} {s t : State} (h : exec i s = .next t) : WritesOnly (destination i) s t := by
  cases exec_effect h with
  | field _ d v m N hd => rw [hd]; exact (WritesOnly.writeF s d v m N).of_files_eq rfl rfl rfl rfl
  | fieldFlag _ d v m N _ hd => rw [hd]; exact (WritesOnly.writeF s d v m N).of_files_eq rfl rfl rfl rfl
  | scalar _ d v hd => rw [hd]; exact (WritesOnly.writeS s d v).of_files_eq rfl rfl rfl rfl
  | scalarFlag _ d v _ hd => rw [hd]; exact (WritesOnly.writeS s d v).of_files_eq rfl rfl rfl rfl
  | affine _ d Q hd => rw [hd]; exact (WritesOnly.writeA s d Q).of_files_eq rfl rfl rfl rfl
  | jacobian _ d Q hd => rw [hd]; exact (WritesOnly.writeJ s d Q).of_files_eq rfl rfl rfl rfl
  | group _ d known Q hd => rw [hd]; exact (WritesOnly.writeGroup s d known Q).of_files_eq rfl rfl rfl rfl
  | recover d _ _ key => exact (WritesOnly.writeRecovered s d key).of_files_eq rfl rfl rfl rfl
  | sign => exact (WritesOnly.refl _ s).of_files_eq (by simp) (by simp) (by simp) (by simp)
  | fault | halt | branch | advance | setk | djnzOn | djnzBack | flag | store | context =>
    exact (WritesOnly.refl _ s).of_files_eq rfl rfl rfl rfl

/-- Settles O18. -/
theorem onlyTheDestinationRegisterChanges : Obligations.OnlyTheDestinationRegisterChanges := fun _ _ _ h =>
  ⟨(exec_writesOnly h).other, (exec_writesOnly h).keepsValid⟩

/-! ### Memory (20_memory.md R46-R62) -/

/-- No instruction changes CMDMEM, the number of power-ups, or what the host sets. -/
theorem exec_keeps_host_state {i : Instr} {s t : State} (h : exec i s = .next t) :
    t.cmdmem = s.cmdmem ∧ t.powerUps = s.powerUps ∧ t.ENTRY = s.ENTRY ∧ t.IRQ_EN = s.IRQ_EN ∧ t.ACCERR = s.ACCERR ∧
      t.CMDERR = s.CMDERR := by
  cases exec_effect h with
  | group | sign | recover => simp
  | fault | halt | branch | advance | setk | djnzOn | djnzBack | field | fieldFlag | scalar | scalarFlag | affine
  | jacobian | flag | store | context => exact ⟨rfl, rfl, rfl, rfl, rfl, rfl⟩

/-- An instruction leaves DMEM, or stores the bytes its slot names. -/
theorem exec_dmem {i : Instr} {s t : State} (h : exec i s = .next t) :
    t.dmem = s.dmem ∨ ∃ lo bs, storedRange i = some (lo, bs.length) ∧ t.dmem = Memory.write s.dmem lo bs := by
  cases exec_effect h with
  | store _ lo bs hrange => exact .inr ⟨lo, bs, hrange, rfl⟩
  | sign slot _ _ _ sig =>
    cases sig with
    | none => exact .inl rfl
    | some sig => exact .inr ⟨_, sig.bytes, by rw [Signature.bytes_length]; rfl, rfl⟩
  | group | recover => exact .inl (by simp)
  | fault | halt | branch | advance | setk | djnzOn | djnzBack | field | fieldFlag | scalar | scalarFlag | affine
  | jacobian | flag | context => exact .inl rfl

/-- Settles O19. -/
theorem onlyTheStoredBytesChange : Obligations.OnlyTheStoredBytesChange := by
  intro i s t h
  obtain ⟨hcmd, hpower, hhost⟩ := exec_keeps_host_state h
  refine ⟨fun lo len hlen a ha => ?_, fun hnone a => ?_, State.readCmd_congr hcmd hpower, hhost⟩
  all_goals obtain hd | ⟨lo', bs, hrange, hd⟩ := exec_dmem h
  · exact State.readByte_congr hd hpower a
  · rw [hrange] at hlen
    cases hlen
    exact (State.readByte_congr (s := s.writeBytes lo bs) hd hpower a).trans
      (s.readByte_writeBytes_outside lo bs a ha)
  · exact State.readByte_congr hd hpower a
  · rw [hrange] at hnone
    cases hnone

/-- Cells that are unwritten after were unwritten before. -/
theorem Memory.get_of_get_write_eq_none {α : Type} {m : Memory α} {lo : Nat} {vs : List α} {a : Nat}
    (h : Memory.get (Memory.write m lo vs) a = none) : Memory.get m a = none := by
  rw [Memory.get_write] at h
  split at h
  · have := List.getElem?_eq_none_iff.1 h
    omega
  · exact h

/-- Memory that stays unwritten was unwritten and holds the same free values. -/
structure KeepsUnwritten (s t : State) : Prop where
  powerUps : t.powerUps = s.powerUps
  dmem : ∀ a, Memory.get t.dmem a = none → Memory.get s.dmem a = none
  cmdmem : ∀ j, Memory.get t.cmdmem j = none → Memory.get s.cmdmem j = none

namespace KeepsUnwritten

variable {s t : State}

theorem readByte (h : KeepsUnwritten s t) {a : Nat} (ha : Memory.get t.dmem a = none) :
    t.readByte a = s.readByte a := by
  simp only [State.readByte, ha, h.dmem a ha, h.powerUps]

theorem readCmd (h : KeepsUnwritten s t) {j : Nat} (hj : Memory.get t.cmdmem j = none) :
    t.readCmd j = s.readCmd j := by
  simp only [State.readCmd, hj, h.cmdmem j hj, h.powerUps]

theorem of_eq (hd : t.dmem = s.dmem) (hc : t.cmdmem = s.cmdmem) (hp : t.powerUps = s.powerUps) : KeepsUnwritten s t :=
  ⟨hp, fun a => by rw [hd]; exact id, fun j => by rw [hc]; exact id⟩

theorem of_write {lo : Nat} {bs : List Byte} (hd : t.dmem = Memory.write s.dmem lo bs) (hc : t.cmdmem = s.cmdmem)
    (hp : t.powerUps = s.powerUps) : KeepsUnwritten s t :=
  ⟨hp, fun a => by rw [hd]; exact Memory.get_of_get_write_eq_none, fun j => by rw [hc]; exact id⟩

theorem exec {i : Instr} (h : exec i s = .next t) : KeepsUnwritten s t := by
  obtain ⟨hcmd, hpower, -⟩ := exec_keeps_host_state h
  obtain hd | ⟨_, _, -, hd⟩ := exec_dmem h
  · exact of_eq hd hcmd hpower
  · exact of_write hd hcmd hpower

theorem writeCtrl (s : State) (v : Word) : KeepsUnwritten s (s.writeCtrl v) := by
  obtain ⟨-, hw⟩ | ⟨-, -, hw⟩ | ⟨-, -, hw⟩ := s.writeCtrl_cases v <;> rw [hw]
  · exact of_eq rfl rfl rfl
  · exact of_eq (by simp) (by simp) (by simp)
  · exact of_eq rfl rfl rfl

theorem hostAccess (s : State) (a : BusAccess) : KeepsUnwritten s (s.hostAccess a) := by
  have heffect := hostAccess_effect s a
  generalize s.hostAccess a = t at heffect
  cases heffect with
  | ctrl v => exact ⟨(writeCtrl s v).powerUps, (writeCtrl s v).dmem, (writeCtrl s v).cmdmem⟩
  | dmem _ lo bs => exact of_write rfl rfl rfl
  | cmdmem _ j w => exact ⟨rfl, fun _ => id, fun _ => Memory.get_of_get_write_eq_none⟩
  | answer | dropped | status | entry => exact of_eq rfl rfl rfl

theorem of_fields {u : State} (h : KeepsUnwritten u t) (hd : u.dmem = s.dmem) (hc : u.cmdmem = s.cmdmem)
    (hp : u.powerUps = s.powerUps) : KeepsUnwritten s t :=
  ⟨h.powerUps.trans hp, hd ▸ h.dmem, hc ▸ h.cmdmem⟩

end KeepsUnwritten

/-- Settles O22: a step other than a hard reset writes cells, but leaves the others unwritten. -/
theorem unwrittenMemoryKeepsItsValue : Obligations.UnwrittenMemoryKeepsItsValue := by
  refine ⟨fun s t h hmove => ?_, fun s => ⟨rfl, fun _ => rfl, fun _ => rfl⟩⟩
  have hkeeps : KeepsUnwritten s t := by
    cases step_effect h with
    | idle => exact .of_eq rfl rfl rfl
    | exec _ _ _ ht => exact (KeepsUnwritten.exec ht).of_fields rfl rfl rfl
    | illegal => exact .of_eq rfl rfl rfl
    | host => exact (KeepsUnwritten.hostAccess _ _).of_fields rfl rfl rfl
    | hardReset hin => exact absurd hin (hmove _)
  exact ⟨fun a ha => ⟨hkeeps.dmem a ha, hkeeps.readByte ha⟩, fun j hj => ⟨hkeeps.cmdmem j hj, hkeeps.readCmd hj⟩⟩

/-! ### pc (10_state.md R29) -/

theorem commit_pc {i : Instr} (h : transfersControl i = false) (s : State) : (commit i s).pc = s.pc + 1 := by
  cases i <;> simp [commit] at h ⊢
  case fsqrt => split <;> rfl
  all_goals simp [transfersControl] at h

/-- Settles O20. -/
theorem plainInstructionsAdvance : Obligations.PlainInstructionsAdvance := by
  intro i s t h
  obtain ⟨c, hc, rfl⟩ | ⟨hnone, rfl⟩ := exec_cases h
  · exact ⟨fun hnone => by simp [hc] at hnone, fun _ => rfl⟩
  · refine ⟨fun _ hplain => ?_, ?_⟩
    · rw [commit_pc hplain, BitVec.toNat_add]
      rfl
    · rintro (hfault | rfl)
      · exact absurd hnone hfault
      · rfl

/-! ### The generator context (10_state.md R32) -/

/-- The context and the table of a state are those of another. -/
def SameContext (s t : State) : Prop := t.GCTX = s.GCTX ∧ t.genTable = s.genTable

theorem exec_context {i : Instr} {s t : State} (h : exec i s = .next t) :
    SameContext s t ∨ i = .gctx ∧ t.GCTX = true ∧ (s.GCTX = true → t.genTable = s.genTable) := by
  cases exec_effect h with
  | context => exact .inr ⟨rfl, rfl, fun hctx => by simp [hctx]⟩
  | group | sign | recover => exact .inl ⟨by simp, by simp⟩
  | fault | halt | branch | advance | setk | djnzOn | djnzBack | field | fieldFlag | scalar | scalarFlag | affine
  | jacobian | flag | store => exact .inl ⟨rfl, rfl⟩

theorem hostAccess_context (s : State) (a : BusAccess) :
    SameContext s (s.hostAccess a) ∨
      (s.hostAccess a).GCTX = false ∧ ∃ v : Word, v.getLsbD 2 = true ∧ a = ⟨.write v, 4, 0x004#17⟩ := by
  have heffect := hostAccess_effect s a
  generalize s.hostAccess a = t at heffect
  cases heffect with
  | ctrl v =>
    obtain ⟨h2, hw⟩ | ⟨-, -, hw⟩ | ⟨-, -, hw⟩ := s.writeCtrl_cases v <;> rw [hw]
    · exact .inr ⟨rfl, v, h2, rfl⟩
    · exact .inl ⟨State.start_GCTX _, State.start_genTable _⟩
    · exact .inl ⟨rfl, rfl⟩
  | answer | dropped | status | entry | dmem | cmdmem => exact .inl ⟨rfl, rfl⟩

/-- What a step that keeps the context says of O16. -/
theorem SameContext.claims {s t : State} (h : SameContext s t) {p q : Prop} :
    (s.GCTX = false → t.GCTX = true → p) ∧ (s.GCTX = true → t.GCTX = false → q) ∧
      (s.GCTX = true → t.GCTX = true → t.genTable = s.genTable) := by
  obtain ⟨hctx, htable⟩ := h
  rw [hctx]
  exact ⟨by simp_all, by simp_all, fun _ _ => htable⟩

/-- Settles O16, move by move. -/
theorem contextRisesByGctxAndFallsByReset : Obligations.ContextRisesByGctxAndFallsByReset := by
  intro s t h
  cases step_effect h with
  | idle | illegal => exact SameContext.claims ⟨rfl, rfl⟩
  | exec hmove hrun hi ht =>
    obtain hsame | ⟨rfl, hctx, htable⟩ := exec_context ht
    · exact hsame.claims
    · exact ⟨fun _ _ => ⟨hmove, hrun, hi⟩, fun _ hfalse => by simp [hctx] at hfalse, fun hs _ => htable hs⟩
  | @host a rest hin =>
    obtain hsame | ⟨hctx, v, h2, rfl⟩ := hostAccess_context (s.withInputs rest) a
    · exact hsame.claims
    · exact ⟨fun _ htrue => by simp [hctx] at htrue, fun _ _ => .inr ⟨v, _, h2, hin⟩,
        fun _ htrue => by simp [hctx] at htrue⟩
  | hardReset hin => exact ⟨nofun, fun _ _ => .inl ⟨_, hin⟩, nofun⟩

/-! ### The run state (10_state.md R34, 70_reset_and_hazards.md R162) -/

theorem exec_run {i : Instr} {s t : State} (h : exec i s = .next t) :
    t.run = s.run ∨ (i = .halt ∧ t = s.endRun) ∨ ∃ c, c ≠ .none ∧ t = s.takeFault c := by
  cases exec_effect h with
  | fault _ c hc => exact .inr (.inr ⟨c, fun h0 => none_not_mem_mayRaise i (h0 ▸ hc), rfl⟩)
  | halt => exact .inr (.inl ⟨rfl, rfl⟩)
  | group | sign | recover => exact .inl (by simp)
  | branch | advance | setk | djnzOn | djnzBack | field | fieldFlag | scalar | scalarFlag | affine | jacobian | flag
  | store | context => exact .inl rfl

theorem start_run_pc (s : State) : s.start.run = .running ∧ (s.run = .idle → s.start.pc = s.ENTRY) := by
  cases hrun : s.run with
  | running => rw [State.start_of_running hrun]; exact ⟨hrun, nofun⟩
  | idle => rw [State.start_of_idle hrun]; exact ⟨rfl, fun _ => rfl⟩

theorem hostAccess_run (s : State) (a : BusAccess) :
    (s.hostAccess a).run = s.run ∨
    ∃ v : Word, a = ⟨.write v, 4, 0x004#17⟩ ∧
      ((v.getLsbD 2 = true ∧ (s.hostAccess a).run = .idle) ∨
       (v.getLsbD 2 = false ∧ v.getLsbD 0 = true ∧ (s.hostAccess a).run = .running ∧
        (s.run = .idle → (s.hostAccess a).pc = s.ENTRY))) := by
  have heffect := hostAccess_effect s a
  generalize s.hostAccess a = t at heffect
  cases heffect with
  | ctrl v =>
    obtain ⟨h2, hw⟩ | ⟨h2, h0, hw⟩ | ⟨-, -, hw⟩ := s.writeCtrl_cases v <;> rw [hw]
    · exact .inr ⟨v, rfl, .inl ⟨h2, rfl⟩⟩
    · exact .inr ⟨v, rfl, .inr ⟨h2, h0, start_run_pc _⟩⟩
    · exact .inl rfl
  | answer | dropped | status | entry | dmem | cmdmem => exact .inl rfl

/-- A step that keeps the run state neither begins nor ends a run. -/
theorem run_claims_of_eq {s t : State} (h : t.run = s.run) {p q : Prop} :
    (s.run = .running → t.run = .idle → p) ∧ (s.run = .idle → t.run = .running → q) := by
  rw [h]
  exact ⟨by simp_all, by simp_all⟩

/-- Settles O21, move by move. -/
theorem runsBeginAndEndAsListed : Obligations.RunsBeginAndEndAsListed := by
  intro s t h
  cases step_effect h with
  | idle => exact run_claims_of_eq rfl
  | illegal hmove hrun => exact ⟨fun _ _ => .inr (.inl ⟨hmove, .illegal, nofun, rfl⟩), by simp [hrun]⟩
  | exec hmove hrun hi ht =>
    obtain hsame | ⟨rfl, rfl⟩ | ⟨c, hc, rfl⟩ := exec_run ht
    · exact run_claims_of_eq hsame
    · exact ⟨fun _ _ => .inl ⟨hmove, hi, rfl, rfl, rfl⟩, by simp [hrun]⟩
    · exact ⟨fun _ _ => .inr (.inl ⟨hmove, c, hc, rfl⟩), by simp [hrun]⟩
  | @host a rest hin =>
    obtain hsame | ⟨v, rfl, ⟨h2, hidle⟩ | ⟨h2, h0, hrun, hpc⟩⟩ := hostAccess_run (s.withInputs rest) a
    · exact run_claims_of_eq hsame
    · exact ⟨fun _ _ => .inr (.inr (.inr ⟨v, _, h2, hin⟩)), fun _ hr => by simp [hidle] at hr⟩
    · exact ⟨fun _ hi => by simp [hrun] at hi, fun hi _ => ⟨v, _, h2, h0, hin, hpc hi⟩⟩
  | hardReset hin => exact ⟨fun _ _ => .inr (.inr (.inl ⟨_, hin⟩)), nofun⟩

end Sys2Proof.Machine
end

section
/-! PROOF. What the plain instructions write and leave (40_control.md R73-R91, 41_field.md R92-R105, 42_scalar.md
R106-R114, 43_group.md R117-R132, 44_multiply.md R133-R136): O23 to O35, O37 to O40, O43 to O45, O60. -/

namespace Sys2Proof.Machine

open Sys2Proof.Config

/-! ### Instructions whose checks pass -/

theorem firstFault_eq_none_iff (i : Instr) (s : State) :
    firstFault i s = none ↔ faultHolds i s .addr = false ∧ faultHolds i s .operand = false ∧
      faultHolds i s .uninit = false ∧ faultHolds i s .noContext = false ∧ faultHolds i s .notNormalized = false ∧
      faultHolds i s .magnitude = false ∧ faultHolds i s .infinity = false ∧ faultHolds i s .invZero = false := by
  simp [firstFault, faultPriority, faultHolds]

/-- An instruction whose checks pass leaves the state of its commit phase. That they pass is computed from the
conditions of the faults and the hypotheses at hand. -/
theorem yields_commit {i : Instr} {s : State} {claim : State → Prop} (h : claim (commit i s))
    (hnone : firstFault i s = none := by
      simp [firstFault_eq_none_iff, faultHolds, slotAndLimit, registersRead, readsContext, normalizedOperands,
        multiplicativeOperands, State.validBit, -Fin.getElem_fin, *]) : Yields i s claim :=
  ⟨_, exec_of_no_fault hnone, h⟩

/-! ### The frame of each update -/

section frames

variable (s : State) (d : RegIdx)

theorem onlyPc_goto (p : Word12) : OnlyPc p s (s.goto p) := ⟨keepsMemory_of_eq rfl rfl rfl, rfl⟩

theorem onlyC_writeC (b : Bool) : OnlyC s (s.writeC b).advance := ⟨keepsMemory_of_eq rfl rfl rfl, rfl⟩

theorem onlyF_writeF (v m : Nat) (N : Bool) : OnlyF d s (s.writeF d v m N).advance :=
  ⟨fun j hj => s.writeF_other d j v m N hj, keepsMemory_of_eq rfl rfl rfl, rfl⟩

theorem onlyFC_writeF (v m : Nat) (N b : Bool) : OnlyFC d s ((s.writeF d v m N).writeC b).advance :=
  ⟨fun j hj => s.writeF_other d j v m N hj, keepsMemory_of_eq rfl rfl rfl, rfl⟩

theorem onlyS_writeS (v : Nat) : OnlyS d s (s.writeS d v).advance :=
  ⟨fun j hj => s.writeS_other d j v hj, keepsMemory_of_eq rfl rfl rfl, rfl⟩

theorem onlySC_writeS (v : Nat) (b : Bool) : OnlySC d s ((s.writeS d v).writeC b).advance :=
  ⟨fun j hj => s.writeS_other d j v hj, keepsMemory_of_eq rfl rfl rfl, rfl⟩

theorem onlyA_writeA (Q : Point) : OnlyA d s (s.writeA d Q).advance :=
  ⟨fun j hj => s.writeA_other d j Q hj, keepsMemory_of_eq rfl rfl rfl, rfl⟩

theorem onlyAC_writeA (Q : Point) (b : Bool) : OnlyAC d s ((s.writeA d Q).writeC b).advance :=
  ⟨fun j hj => s.writeA_other d j Q hj, keepsMemory_of_eq rfl rfl rfl, rfl⟩

theorem onlyJ_writeJ (Q : Point) : OnlyJ d s (s.writeJ d Q).advance :=
  ⟨fun j hj => s.writeJ_other d j Q hj, keepsMemory_of_eq rfl rfl rfl, rfl⟩

theorem onlyJDraw_drawJ : OnlyJDraw d s (s.drawJ d).advance :=
  ⟨fun j hj => s.writeJ_other d j _ hj, keepsMemory_of_eq rfl rfl rfl, rfl⟩

variable (lo : Nat) {len : Nat} {bs : List Byte} (hlen : bs.length = len)

include hlen

theorem onlyStore_writeBytes : OnlyStore lo len s (s.writeBytes lo bs).advance := by
  subst hlen
  exact ⟨fun a ha => s.readByte_writeBytes_outside lo bs a ha, State.readCmd_congr rfl rfl, rfl⟩

theorem onlyStoreC_writeBytes (b : Bool) : OnlyStoreC lo len s ((s.writeBytes lo bs).writeC b).advance := by
  subst hlen
  exact ⟨fun a ha => s.readByte_writeBytes_outside lo bs a ha, State.readCmd_congr rfl rfl, rfl⟩

end frames

theorem bytesAt_writeBytes (s : State) (lo : Nat) (bs : List Byte) : BytesAt (s.writeBytes lo bs) lo bs :=
  fun i hi => s.readByte_writeBytes_inside lo bs i hi

/-! ### Control (40_control.md R73-R79) -/

theorem goto_ite (s : State) (p : Prop) [Decidable p] (x y : Word12) :
    (if p then s.goto x else s.goto y) = s.goto (if p then x else y) := by
  split <;> rfl

theorem sub_one_eq_zero_iff (k : Word12) : k - 1 = 0 ↔ k.toNat = 1 := by
  bv_omega

theorem commit_djnz (tgt : Word12) (s : State) :
    commit (.djnz tgt) s = (s.writeK (s.K - 1)).goto (if s.K.toNat = 1 then s.pc + 1 else tgt) := by
  rw [commit, State.advance, goto_ite]
  simp only [sub_one_eq_zero_iff, State.writeK_pc]

/-- Settles O23. -/
theorem controlInstructions : Obligations.ControlInstructions := by
  intro s tgt v
  refine ⟨yields_commit ⟨keepsMemory_of_eq rfl rfl rfl, rfl⟩, yields_commit (onlyPc_goto s tgt), yields_commit ?_,
    yields_commit ?_, yields_commit (onlyPc_goto s _), fun hv => yields_commit ⟨?_, keepsMemory_of_eq rfl rfl rfl, rfl⟩,
    yields_commit ?_⟩
  · rw [commit, State.advance, goto_ite]
    exact onlyPc_goto s _
  · rw [commit, State.advance, goto_ite]
    exact onlyPc_goto s _
  · exact Nat.mod_eq_of_lt hv
  · rw [commit_djnz]
    refine ⟨?_, keepsMemory_of_eq rfl rfl rfl, rfl⟩
    rw [State.goto_K, State.writeK_K]
    bv_omega

/-! ### Memory and moves (20_memory.md R53, R55; 40_control.md R80-R91) -/

theorem memRead_memWrite (s : State) (addr nb v : Nat) : (s.memWrite addr nb v).memRead addr nb = v % 256 ^ nb := by
  have h := memRead_writeBytes s addr (bytesBE nb v)
  rwa [bytesBE_length, valueBE_bytesBE] at h

/-- Settles O24. -/
theorem operandsAreBigEndian : Obligations.OperandsAreBigEndian := by
  intro s addr nb v
  refine ⟨memRead_memWrite s addr nb v, fun i hi => ?_, fun a ha => ?_, memRead_succ s addr nb⟩
  · rw [State.memWrite, State.readByte_writeBytes_inside _ _ _ _ (by rwa [bytesBE_length])]
    simp [bytesBE]
  · exact s.readByte_writeBytes_outside _ _ _ (by rwa [bytesBE_length])

theorem not_fieldOverflow (v : Nat) : (!fieldOverflow v) = decide (v < P_FIELD) := by
  rw [fieldOverflow, ← decide_not]
  exact decide_eq_decide.2 not_le

/-- Settles O25. -/
theorem loadsReadASlot : Obligations.LoadsReadASlot := by
  intro s d slot hslot
  refine ⟨rfl, yields_commit ⟨?_, rfl, onlyFC_writeF s d _ _ _ _⟩,
    yields_commit ⟨s.writeS_same d _, rfl, onlySC_writeS s d _ _⟩⟩
  rw [← not_fieldOverflow]
  exact s.writeF_same d _ _ _

/-- A store of a value of at most 256 bits can be read back. -/
theorem store_value (s : State) {v : Nat} (hv : v < 256 ^ 32) (addr : Nat) :
    BytesAt (s.memWrite addr 32 v).advance addr (bytesBE 32 v) ∧ (s.memWrite addr 32 v).advance.memRead addr 32 = v ∧
      OnlyStore addr 32 s (s.memWrite addr 32 v).advance :=
  ⟨bytesAt_writeBytes s addr _, (memRead_memWrite s addr 32 v).trans (Nat.mod_eq_of_lt hv),
    onlyStore_writeBytes s addr (bytesBE_length 32 v)⟩

/-- Settles O26. -/
theorem storesWriteASlot : Obligations.StoresWriteASlot := by
  intro s a slot hs hslot
  refine ⟨rfl, fun hvalid hN => yields_commit (store_value s ?_ _), fun hvalid => yields_commit (store_value s ?_ _)⟩
  · obtain ⟨-, -, -, hnorm⟩ := hs.field a hvalid
    exact (hnorm hN).1.trans (by decide)
  · exact (hs.scalar a hvalid).trans (by decide)

/-- A written register whose contents are written elsewhere is copied with its tags. -/
theorem writeF_copy (s : State) (d : RegIdx) {x : FReg} (hx : x.valid = true) :
    (s.writeF d x.v x.m x.N).advance.F[d] = x := by
  refine (s.writeF_same d x.v x.m x.N).trans ?_
  rw [← hx]

theorem writeS_copy (s : State) (d : RegIdx) {x : SReg} (hx : x.valid = true) :
    (s.writeS d x.v).advance.S[d] = x := by
  refine (s.writeS_same d x.v).trans ?_
  rw [← hx]

theorem writeA_copy (s : State) (d : RegIdx) {x : PReg} (hx : x.valid = true) :
    (s.writeA d x.pt).advance.A[d] = x := by
  refine (s.writeA_same d x.pt).trans ?_
  rw [← hx]

theorem writeJ_copy (s : State) (d : RegIdx) {x : PReg} (hx : x.valid = true) :
    (s.writeJ d x.pt).advance.J[d] = x := by
  refine (s.writeJ_same d x.pt).trans ?_
  rw [← hx]

/-- Settles O27. -/
theorem movesAndConstants : Obligations.MovesAndConstants := by
  intro s d a v
  exact ⟨fun ha => yields_commit ⟨writeF_copy s d ha, onlyF_writeF s d _ _ _⟩,
    fun ha => yields_commit ⟨writeS_copy s d ha, onlyS_writeS s d _⟩,
    fun ha => yields_commit ⟨writeA_copy s d ha, onlyA_writeA s d _⟩,
    fun ha => yields_commit ⟨writeJ_copy s d ha, onlyJ_writeJ s d _⟩,
    yields_commit ⟨s.writeF_same d v 1 true, onlyF_writeF s d _ _ _⟩,
    yields_commit ⟨s.writeS_same d v, onlyS_writeS s d _⟩,
    fun ha hN => yields_commit ⟨s.writeS_same d _, rfl, onlySC_writeS s d _ _⟩,
    fun ha => yields_commit ⟨s.writeF_same d _ _ _, onlyF_writeF s d _ _ _⟩⟩

/-! ### Field (41_field.md) -/

/-- A representative of magnitude m is below (m + 1) p: the room that p leaves below 2^256 is that small. -/
theorem value_lt_of_magnitude {v m bound : Nat} (hv : v < m * 2 ^ 256) (hm : m ≤ bound) (hbound : bound ≤ 31) :
    v < (bound + 1) * P_FIELD := by
  have hle : m * 2 ^ 256 ≤ bound * 2 ^ 256 := Nat.mul_le_mul_right _ hm
  have hlt : bound * 2 ^ 256 < (bound + 1) * P_FIELD := by
    rw [P_FIELD]
    omega
  omega

/-- What FNEG writes is positive and cancels its operand. -/
theorem negated_value {v k : Nat} (hv : v < k * P_FIELD) :
    (k * P_FIELD - v + v) % P_FIELD = 0 ∧ 1 ≤ k * P_FIELD - v :=
  ⟨by rw [Nat.sub_add_cancel hv.le, Nat.mul_mod_left], Nat.sub_pos_of_lt hv⟩

/-- Settles O28. -/
theorem fieldArithmetic : Obligations.FieldArithmetic := by
  intro s d a b M hs ha hb
  refine ⟨fun hm => yields_commit ⟨s.writeF_same d _ _ _, onlyF_writeF s d _ _ _⟩, fun h1 h31 hm => ?neg,
    fun ha8 hb8 => yields_commit ⟨s.writeF_same d _ _ _, onlyF_writeF s d _ _ _⟩,
    fun ha8 => yields_commit ⟨s.writeF_same d _ _ _, onlyF_writeF s d _ _ _⟩,
    yields_commit ⟨s.writeF_same d _ _ _, onlyF_writeF s d _ _ _⟩,
    yields_commit ⟨s.writeF_same d _ _ _, onlyF_writeF s d _ _ _⟩⟩
  case neg =>
    obtain ⟨-, -, hv, -⟩ := hs.field a ha
    have hneg := negated_value (value_lt_of_magnitude hv hm h31)
    have hvalue : (commit (.fneg d a M) s).F[d] = ⟨(M + 1) * P_FIELD - s.F[a].v, M + 1, false, true⟩ :=
      s.writeF_same d _ _ _
    have hM : M ≠ 0 := by omega
    refine yields_commit ⟨hvalue, ?_, ?_, onlyF_writeF s d _ _ _⟩
    · rw [hvalue]; exact hneg.1
    · rw [hvalue]; exact hneg.2

theorem advance_writeF_same (s : State) (d : RegIdx) (v m : Nat) (N : Bool) :
    (s.writeF d v m N).advance.F[d] = ⟨v, m, N, true⟩ := s.writeF_same d v m N

theorem advance_writeC_writeF_same (s : State) (d : RegIdx) (v m : Nat) (N b : Bool) :
    ((s.writeF d v m N).writeC b).advance.F[d] = ⟨v, m, N, true⟩ := s.writeF_same d v m N

/-- Settles O29. -/
theorem fieldMontgomeryProduct : Obligations.FieldMontgomeryProduct := by
  intro s d a b ha hb ha8 hb8
  refine yields_commit ?_
  simp only [commit, advance_writeF_same, true_and]
  exact ⟨montP_mul_radix _ _, montP_lt _ _, onlyF_writeF s d _ 1 false⟩

/-- Settles O30. -/
theorem fieldInverse : Obligations.FieldInverse := by
  intro s d a ha ha8 hne
  refine yields_commit ?_
  simp only [commit, advance_writeF_same, true_and]
  refine ⟨?_, powMod_lt P_FIELD_pos _ _, onlyF_writeF s d _ 1 false⟩
  rw [← Nat.mod_mul_mod]
  exact mul_invP (by rwa [Nat.mod_mod])

/-- Settles O31: FSQRT's test decides whether there is a root. -/
theorem fieldSquareRoot : Obligations.FieldSquareRoot := by
  intro s d a ha ha8
  have htest := isQrRoot_iff (s.F[a].v % P_FIELD)
  rw [Nat.mod_mod] at htest
  refine ⟨fun hroot => yields_commit ?_, fun hnone => yields_commit ?_⟩
  · obtain ⟨y, hy⟩ := hroot
    obtain ⟨hsq, hresidue⟩ := fsqrtCand_of_square (a := s.F[a].v % P_FIELD) (by rwa [Nat.mod_mod])
    rw [Nat.mod_mod] at hsq
    rw [commit, if_pos (htest.2 ⟨y, hy⟩)]
    simp only [advance_writeC_writeF_same, true_and]
    exact ⟨hsq, fsqrtCand_lt _, hresidue, rfl, onlyFC_writeF s d _ _ _ _⟩
  · rw [commit, if_neg (fun h => hnone (htest.1 h))]
    exact ⟨rfl, onlyC_writeC s _⟩

/-- Settles O32. -/
theorem fieldTests : Obligations.FieldTests := fun s _ _ ha haN =>
  ⟨yields_commit ⟨rfl, onlyC_writeC s _⟩, yields_commit ⟨rfl, onlyC_writeC s _⟩, fun hb hbN =>
    ⟨yields_commit ⟨rfl, onlyC_writeC s _⟩, yields_commit ⟨rfl, onlyC_writeC s _⟩⟩⟩

/-! ### Scalar (42_scalar.md R106-R114) -/

theorem advance_writeS_same (s : State) (d : RegIdx) (v : Nat) : (s.writeS d v).advance.S[d] = ⟨v, true⟩ :=
  s.writeS_same d v

/-- Settles O33. -/
theorem scalarArithmetic : Obligations.ScalarArithmetic := by
  intro s d a b hs ha hb
  refine ⟨yields_commit ⟨s.writeS_same d _, onlyS_writeS s d _⟩,
    yields_commit ⟨s.writeS_same d _, ?_, onlyS_writeS s d _⟩, yields_commit ⟨s.writeS_same d _, onlyS_writeS s d _⟩⟩
  have hlt := hs.scalar a ha
  rw [commit, advance_writeS_same, Nat.mod_add_mod, Nat.sub_add_cancel hlt.le, Nat.mod_self]

/-- Settles O34. -/
theorem scalarMontgomeryAndInverse : Obligations.ScalarMontgomeryAndInverse := by
  intro s d a b hs ha
  refine ⟨fun hb => yields_commit ?_, fun hne => yields_commit ?_⟩
  all_goals simp only [commit, advance_writeS_same, true_and]
  · exact ⟨montN_mul_radix _ _, montN_lt _ _, onlyS_writeS s d _⟩
  · refine ⟨mul_invN ?_, invN_lt _, onlyS_writeS s d _⟩
    rwa [Nat.mod_eq_of_lt (hs.scalar a ha)]

/-- Of a scalar v and n - v exactly one is in the high half: n is odd. -/
theorem isHigh_neg {v : Nat} (hlt : v < N_ORDER) : isHigh v = !isHigh (N_ORDER - v) := by
  have hodd : N_ORDER = 2 * ((N_ORDER - 1) / 2) + 1 := by decide
  rw [isHigh, isHigh, ← decide_not, decide_eq_decide]
  omega

/-- Settles O35. -/
theorem scalarTests : Obligations.ScalarTests := by
  intro s a b hs ha hb
  refine ⟨yields_commit ⟨rfl, onlyC_writeC s _⟩, yields_commit ⟨rfl, onlyC_writeC s _⟩,
    yields_commit ⟨rfl, onlyC_writeC s _⟩, yields_commit ⟨rfl, onlyC_writeC s _⟩,
    fun _ hneg => yields_commit (yields_commit ?_)⟩
  have h := isHigh_neg (hs.scalar a ha)
  rwa [← hneg] at h

/-! ### Group (43_group.md) -/

/-- Settles O37. -/
theorem affineConstruction : Obligations.AffineConstruction := by
  intro s d a b x y
  refine ⟨fun ha hb => yields_commit ⟨s.writeA_same d _, onlyA_writeA s d _⟩,
    yields_commit ⟨s.writeA_same d _, onlyA_writeA s d _⟩, yields_commit ⟨s.writeA_same d _, onlyA_writeA s d _⟩,
    fun ha hpt => ⟨yields_commit ⟨?_, onlyF_writeF s d _ _ _⟩, yields_commit ⟨?_, onlyF_writeF s d _ _ _⟩⟩⟩ <;>
  rw [commit, advance_writeF_same, hpt, Point.coords]

/-- Settles O38. -/
theorem pointTests : Obligations.PointTests := by
  intro s a
  refine ⟨fun ha => ⟨yields_commit ⟨onlyC_writeC s _, fun hpt => ?_, fun x y hpt => ?_⟩,
    yields_commit ⟨rfl, onlyC_writeC s _⟩⟩, fun ha => yields_commit ⟨rfl, onlyC_writeC s _⟩⟩ <;>
  · rw [commit, hpt]
    rfl

/-- What a negation instruction leaves in its destination, by the operand. -/
theorem neg_claims (Q : Point) :
    (Q = .inf → Q.neg = .inf) ∧ ∀ x y, Q = .aff x y → Q.neg = .aff x ((P_FIELD - y) % P_FIELD) :=
  ⟨by rintro rfl; rfl, by rintro x y rfl; rfl⟩

theorem advance_writeA_same (s : State) (d : RegIdx) (Q : Point) : (s.writeA d Q).advance.A[d] = ⟨Q, true⟩ :=
  s.writeA_same d Q

theorem advance_writeJ_same (s : State) (d : RegIdx) (Q : Point) : (s.writeJ d Q).advance.J[d] = ⟨Q, true⟩ :=
  s.writeJ_same d Q

/-- Settles O39. -/
theorem negationAndConversion : Obligations.NegationAndConversion := by
  intro s d a
  refine ⟨fun ha => ⟨yields_commit ⟨onlyA_writeA s d _, ?_⟩, yields_commit ⟨s.writeJ_same d _, onlyJ_writeJ s d _⟩⟩,
    yields_commit ⟨s.writeJ_same d _, onlyJ_writeJ s d _⟩,
    fun ha => ⟨yields_commit ⟨onlyJ_writeJ s d _, ?_⟩, yields_commit ⟨s.writeA_same d _, onlyA_writeA s d _⟩⟩⟩
  · rw [commit, advance_writeA_same]
    exact ⟨rfl, neg_claims _⟩
  · rw [commit, advance_writeJ_same]
    exact ⟨rfl, neg_claims _⟩

/-- The group-law and multiply instructions with every operand on the curve. -/
theorem writeGroup_onCurve (s : State) (d : RegIdx) {known : Bool} (hknown : known = true) (Q : Point) :
    (s.writeGroup d known Q).advance.J[d] = ⟨Q, true⟩ ∧ OnlyJ d s (s.writeGroup d known Q).advance := by
  rw [hknown]
  exact ⟨s.writeJ_same d Q, onlyJ_writeJ s d Q⟩

/-- The group-law and multiply instructions with an operand off the curve. -/
theorem writeGroup_offCurve (s : State) (d : RegIdx) {known : Bool} (hknown : known = false) (Q : Point) :
    (s.writeGroup d known Q).advance.J[d] = ⟨drawnPoint s.draws, true⟩ ∧
      (s.writeGroup d known Q).advance.draws = s.draws + 1 ∧ OnlyJDraw d s (s.writeGroup d known Q).advance := by
  rw [hknown]
  exact ⟨s.writeJ_same d _, rfl, onlyJDraw_drawJ s d⟩

/-- Settles O40. -/
theorem groupInstructionsOnTheCurve : Obligations.GroupInstructionsOnTheCurve := fun s d a b ha hac =>
  ⟨yields_commit (writeGroup_onCurve s d hac _),
    fun hb hbc => yields_commit (writeGroup_onCurve s d (by rw [hac, hbc]; rfl) _),
    fun hb hbc => yields_commit (writeGroup_onCurve s d (by rw [hac, hbc]; rfl) _)⟩

/-- Settles O43. -/
theorem offCurveOperandsGiveAFreePoint : Obligations.OffCurveOperandsGiveAFreePoint := by
  refine ⟨drawnPoint_reduced, fun s d a b c => ⟨fun ha hoff => ?_, fun ha hb hoff => ?_, fun ha hb hoff => ?_,
    fun ha hb hoff => ?_, fun ha hb hc hctx hoff => ?_⟩⟩
  · exact yields_commit (writeGroup_offCurve s d hoff _)
  · exact yields_commit (writeGroup_offCurve s d (Bool.and_eq_false_iff.2 hoff) _)
  · exact yields_commit (writeGroup_offCurve s d (Bool.and_eq_false_iff.2 hoff) _)
  · exact yields_commit (writeGroup_offCurve s d hoff _)
  · exact yields_commit (writeGroup_offCurve s d hoff _)

/-! ### Multiply (44_multiply.md) -/

theorem mem_oddMultiples (w : Nat) (Q : Point) :
    Q ∈ oddMultiples w ↔ ∃ j, j % 2 = 1 ∧ j ≤ 2 ^ (w - 1) - 1 ∧ Q = Point.gen.mulSpec j := by
  have hpos : 0 < 2 ^ (w - 1) := Nat.two_pow_pos _
  simp only [oddMultiples, List.mem_map, List.mem_filter, List.mem_range, beq_iff_eq, Point.gen_mul_eq_mulSpec]
  constructor
  · rintro ⟨j, ⟨hlt, hodd⟩, rfl⟩
    exact ⟨j, hodd, Nat.le_sub_one_of_lt hlt, rfl⟩
  · rintro ⟨j, hodd, hle, rfl⟩
    exact ⟨j, ⟨Nat.lt_of_le_sub_one hpos hle, hodd⟩, rfl⟩

/-- Settles O44. -/
theorem gctxBuildsTheTableOnce : Obligations.GctxBuildsTheTableOnce := by
  intro s
  refine ⟨yields_commit ⟨keepsMemory_of_eq rfl rfl rfl, rfl, fun hctx Q => ?_, rfl⟩,
    fun hctx => yields_commit ⟨keepsMemory_of_eq rfl rfl rfl, ?_⟩⟩
  · rw [← mem_oddMultiples, commit]
    simp [hctx]
  · rw [commit, State.buildContext, if_pos hctx, ← hctx]
    rfl

/-- Settles O45: doubling and adding is repeated addition on the curve. -/
theorem multipliesAreRepeatedAddition : Obligations.MultipliesAreRepeatedAddition := by
  intro s d a b c hs ha
  refine ⟨fun hc hcurve => yields_commit ?_, fun hctx => yields_commit ?_, fun hctx hb hc hcurve => yields_commit ?_⟩
  · rw [← Point.mul_eq_mulSpec hcurve (hs.affine c hc)]
    exact writeGroup_onCurve s d hcurve _
  · rw [show Point.aff GX GY = Point.gen from rfl, ← Point.gen_mul_eq_mulSpec]
    exact ⟨s.writeJ_same d _, onlyJ_writeJ s d _⟩
  · rw [show Point.aff GX GY = Point.gen from rfl, ← Point.gen_mul_eq_mulSpec,
      ← Point.mul_eq_mulSpec hcurve (hs.affine c hc)]
    exact writeGroup_onCurve s d hcurve _

/-! ### Timing (70_reset_and_hazards.md R165, R166) -/

theorem timingClass_eq_vt_iff (i : Instr) :
    timingClass i = .vt ↔ i.mnemonic ∈ ["FNORMV", "SWNAF", "PVALID", "PMULGQ", "EVERIFY", "ERECOVER"] := by
  cases i <;> simp [timingClass, Instr.mnemonic]

theorem timingClass_congr {i j : Instr} (h : j.mnemonic = i.mnemonic) : timingClass j = timingClass i := by
  have hi := timingClass_eq_vt_iff i
  have hj := timingClass_eq_vt_iff j
  rw [h, ← hi] at hj
  cases hti : timingClass i <;> cases htj : timingClass j <;> simp_all

/-- Settles O60. -/
theorem timingClasses : Obligations.TimingClasses := by
  intro i
  refine ⟨timingClass_eq_vt_iff i, fun o => ?_, fun j hct hmn hregs hslot o o' => ?_⟩
  · rw [latency]
    split <;> exact Nat.le_add_right _ _
  · have hj : timingClass j = .ct := (timingClass_congr hmn).trans hct
    simp only [latency, accesses, hct, hj, hmn, hregs, hslot, and_self]

end Sys2Proof.Machine
end

section
/-! PROOF. The width-w non-adjacent form (00_scope.md R20, 42_scalar.md R115): O36. -/

namespace Sys2Proof.Machine

open Sys2Proof.Config

/-! ### One digit -/

theorem wnafDigit_of_even {k : Nat} (hk : k % 2 = 0) (w : Nat) : wnafDigit k w = 0 := by
  rw [wnafDigit, if_neg (by omega)]

theorem wnafRest_of_even {k : Nat} (hk : k % 2 = 0) (w : Nat) : wnafRest k w = k / 2 := by
  rw [wnafRest, wnafDigit_of_even hk, sub_zero, Int.toNat_natCast]

/-- The digit of an odd k is k mod 2^w or what that lacks of 2^w, so the half-range bounds it and the window that it
takes off k is a multiple of 2^w. -/
theorem wnafDigit_of_odd {k w : Nat} (hw : 2 ≤ w) (hk : k % 2 = 1) :
    wnafDigit k w % 2 = 1 ∧ |wnafDigit k w| ≤ 2 ^ (w - 1) - 1 ∧
      ∃ q : Nat, (k : Int) = wnafDigit k w + (2 ^ w * q : Nat) ∧ ∀ m, k < 2 ^ m → 2 ^ w * q ≤ 2 ^ m := by
  obtain ⟨e, he⟩ : ∃ e, 2 ^ (w - 1) = 2 * e := ⟨2 ^ (w - 2), by rw [← pow_succ']; congr 1; omega⟩
  have h2w : 2 ^ w = 4 * e := by
    rw [show w = w - 1 + 1 by omega, pow_succ, he]
    ring
  have hpow : (2 : Int) ^ (w - 1) = 2 * e := by exact_mod_cast he
  have hpos : 0 < 2 ^ (w - 1) := Nat.two_pow_pos _
  have hdiv := Nat.div_add_mod k (2 ^ w)
  have hlt := Nat.mod_lt k (Nat.two_pow_pos w)
  have hodd : k % 2 ^ w % 2 = 1 := by rw [Nat.mod_mod_of_dvd k (dvd_pow_self 2 (by omega)), hk]
  rw [wnafDigit, if_pos hk, hpow, abs_le]
  split
  · rename_i hhigh
    refine ⟨by omega, by omega, k / 2 ^ w + 1, by rw [Nat.mul_add]; omega, fun m hm => ?_⟩
    have hwm : w ≤ m := by
      by_contra hlow
      have := Nat.pow_le_pow_right (n := 2) (by omega) (show m ≤ w - 1 by omega)
      have := Nat.mod_le k (2 ^ w)
      omega
    rw [← Nat.add_sub_of_le hwm, pow_add] at hm ⊢
    exact Nat.mul_le_mul_left _ (Nat.div_lt_of_lt_mul hm)
  · exact ⟨by omega, by omega, k / 2 ^ w, by omega, fun m hm => by omega⟩

/-- What is left of an odd k after its digit: a multiple of 2^(w-1), which stays in range. -/
theorem wnafRest_of_odd {k w : Nat} (hw : 2 ≤ w) (hk : k % 2 = 1) :
    (k : Int) = wnafDigit k w + 2 * wnafRest k w ∧ 2 ^ (w - 1) ∣ wnafRest k w ∧
      ∀ m, k < 2 ^ m → 2 * wnafRest k w ≤ 2 ^ m := by
  obtain ⟨-, -, q, hq, hbound⟩ := wnafDigit_of_odd hw hk
  have h2w : 2 ^ w = 2 * 2 ^ (w - 1) := by rw [← pow_succ']; congr 1; omega
  have hrest : wnafRest k w = 2 ^ (w - 1) * q := by
    rw [wnafRest, show (k : Int) - wnafDigit k w = (2 ^ w * q : Nat) by omega, Int.toNat_natCast, h2w, mul_assoc,
      Nat.mul_div_cancel_left _ (by omega)]
  have h2rest : 2 ^ w * q = 2 * wnafRest k w := by rw [hrest, h2w, mul_assoc]
  rw [h2rest] at hq hbound
  exact ⟨by exact_mod_cast hq, ⟨q, hrest⟩, hbound⟩

theorem eq_wnafDigit_add_rest {w : Nat} (hw : 2 ≤ w) (k : Nat) : (k : Int) = wnafDigit k w + 2 * wnafRest k w := by
  obtain hk | hk := Nat.mod_two_eq_zero_or_one k
  · rw [wnafDigit_of_even hk, wnafRest_of_even hk]
    omega
  · exact (wnafRest_of_odd hw hk).1

/-- The digits of k at most 2^(m+1) go on with a number at most 2^m. -/
theorem wnafRest_le {k m w : Nat} (hw : 2 ≤ w) (hk : k ≤ 2 ^ (m + 1)) : wnafRest k w ≤ 2 ^ m := by
  rw [pow_succ] at hk
  obtain heven | hodd := Nat.mod_two_eq_zero_or_one k
  · rw [wnafRest_of_even heven]
    omega
  · have := (wnafRest_of_odd hw hodd).2.2 (m + 1) (by rw [pow_succ]; omega)
    rw [pow_succ] at this
    omega

/-! ### The digits -/

/-- m + 1 digits are enough for a number of at most 2^m. -/
theorem wnafDigits_value {w : Nat} (hw : 2 ≤ w) :
    ∀ (m k : Nat), k ≤ 2 ^ m → (wnafDigits w (m + 1) k).foldr (fun d acc => d + 2 * acc) 0 = (k : Int)
  | 0, k, hk => by
    have hdigit : wnafDigit k w = k := by
      obtain rfl | rfl : k = 0 ∨ k = 1 := by rw [pow_zero] at hk; omega
      · exact wnafDigit_of_even rfl w
      · have hhalf : 2 ≤ 2 ^ (w - 1) := by
          simpa using Nat.pow_le_pow_right (n := 2) (by omega) (show 1 ≤ w - 1 by omega)
        have hone : 1 % 2 ^ w = 1 := Nat.mod_eq_of_lt (Nat.one_lt_two_pow (by omega))
        rw [wnafDigit, if_pos rfl, hone, if_neg (by omega)]
    simp [wnafDigits, hdigit]
  | m + 1, k, hk => by
    rw [wnafDigits, List.foldr_cons, wnafDigits_value hw m _ (wnafRest_le hw hk)]
    exact (eq_wnafDigit_add_rest hw k).symm

theorem odd_of_mem_wnafDigits {w : Nat} (hw : 2 ≤ w) :
    ∀ (count k : Nat), ∀ d ∈ wnafDigits w count k, d ≠ 0 → d % 2 = 1 ∧ |d| ≤ 2 ^ (w - 1) - 1
  | 0, _, d, hd, _ => by cases hd
  | count + 1, k, d, hd, hne => by
    obtain rfl | hd := List.mem_cons.1 hd
    · obtain hk | hk := Nat.mod_two_eq_zero_or_one k
      · exact absurd (wnafDigit_of_even hk w) hne
      · obtain ⟨hodd, hle, -⟩ := wnafDigit_of_odd hw hk
        exact ⟨hodd, hle⟩
    · exact odd_of_mem_wnafDigits hw count _ d hd hne

/-- A multiple of 2^e begins with e zero digits. -/
theorem wnafDigits_eq_zero_of_dvd {w : Nat} :
    ∀ (count k e j : Nat), 2 ^ e ∣ k → j < e → ∀ hj : j < (wnafDigits w count k).length,
      (wnafDigits w count k)[j] = 0
  | 0, _, _, _, _, _, hj => by simp [wnafDigits] at hj
  | count + 1, k, e + 1, j, hdvd, hje, hj => by
    have hk : k % 2 = 0 := Nat.mod_eq_zero_of_dvd ((dvd_pow_self 2 e.succ_ne_zero).trans hdvd)
    cases j with
    | zero => exact wnafDigit_of_even hk w
    | succ j =>
      refine wnafDigits_eq_zero_of_dvd count _ e j ?_ (by omega) _
      rw [wnafRest_of_even hk]
      rw [pow_succ'] at hdvd
      exact Nat.dvd_div_of_mul_dvd hdvd

/-- Of w consecutive digits at most one is not zero. -/
theorem wnafDigits_sparse {w : Nat} (hw : 2 ≤ w) :
    ∀ (count k i j : Nat) (hi : i < (wnafDigits w count k).length) (hj : j < (wnafDigits w count k).length),
      i < j → j < i + w → (wnafDigits w count k)[i] ≠ 0 → (wnafDigits w count k)[j] = 0
  | 0, _, _, _, hi, _, _, _, _ => by simp [wnafDigits] at hi
  | count + 1, k, 0, j + 1, _, hj, _, hjw, hne => by
    obtain hk | hk := Nat.mod_two_eq_zero_or_one k
    · exact absurd (wnafDigit_of_even hk w) hne
    · exact wnafDigits_eq_zero_of_dvd count _ (w - 1) j (wnafRest_of_odd hw hk).2.1 (by omega) _
  | count + 1, k, i + 1, j + 1, hi, hj, hij, hjw, hne =>
    wnafDigits_sparse hw count (wnafRest k w) i j (Nat.lt_of_succ_lt_succ hi) (Nat.lt_of_succ_lt_succ hj) (by omega)
      (by omega) hne

/-- Settles O36. -/
theorem signedDigitsOfAScalar : Obligations.SignedDigitsOfAScalar := by
  intro s slot w a hs hslot hw hw8 ha
  have hlt : s.S[a].v ≤ 2 ^ 256 := ((hs.scalar a ha).trans (by decide)).le
  have hwidth : 1 < w := hw
  refine ⟨wnaf s.S[a].v w, wnafDigits_length w 257 _, wnafDigits_value hw 256 _ hlt, odd_of_mem_wnafDigits hw 257 _,
    wnafDigits_sparse hw 257 _,
    yields_commit ⟨bytesAt_writeBytes s _ _, onlyStore_writeBytes s _ (wnafBytes_length _ _)⟩⟩

end Sys2Proof.Machine
end

section
/-! PROOF. The group law of 00_scope.md R18: O41, O42, O47. -/

namespace Sys2Proof.Machine

open Sys2Proof.Config

/-! ### Chord and tangent -/

theorem modEq_iff_cast_eq (a b : Int) : a ≡ b [ZMOD P_FIELD] ↔ (a : ZMod P_FIELD) = b :=
  (ZMod.intCast_eq_intCast_iff a b P_FIELD).symm

/-- The third point of a line of slope l, mirrored. -/
theorem exists_chord (l x1 y1 x2 : Nat) :
    ∃ x3 y3 : Nat, chord l x1 y1 x2 = .aff x3 y3 ∧ x3 < P_FIELD ∧ y3 < P_FIELD ∧
      ((x3 : Int) ≡ l ^ 2 - x1 - x2 [ZMOD P_FIELD]) ∧ ((y3 : Int) ≡ l * ((x1 : Int) - x3) - y1 [ZMOD P_FIELD]) := by
  have := P_FIELD_fact
  refine ⟨_, _, rfl, subP_lt _ _, subP_lt _ _, ?_, ?_⟩ <;> rw [modEq_iff_cast_eq] <;> push_cast <;>
    simp only [cast_subP, Nat.cast_mul, Nat.cast_add, Nat.cast_pow]
  ring

/-- The chord's slope is the quotient of the differences. -/
theorem chord_slope {x1 y1 x2 y2 : Nat} (h1 : x1 < P_FIELD) (h2 : x2 < P_FIELD) (hne : x1 ≠ x2) :
    ((subP y2 y1 * invP (subP x2 x1) % P_FIELD : Nat) : Int) * ((x2 : Int) - x1) ≡ (y2 : Int) - y1 [ZMOD P_FIELD] := by
  have := P_FIELD_fact
  have hx : (x2 : ZMod P_FIELD) - x1 ≠ 0 := fun h => hne (eq_of_cast_eq h1 h2 (sub_eq_zero.1 h).symm)
  rw [modEq_iff_cast_eq, Int.cast_mul, Int.cast_natCast, cast_mod]
  push_cast
  rw [cast_invP, cast_subP, cast_subP, inv_mul_cancel_right₀ hx]

/-- The tangent's slope is the quotient of the derivatives. -/
theorem tangent_slope {x y : Nat} (hy0 : 0 < y) (hy : y < P_FIELD) :
    ((3 * x ^ 2 * invP (2 * y) % P_FIELD : Nat) : Int) * (2 * (y : Int)) ≡ 3 * (x : Int) ^ 2 [ZMOD P_FIELD] := by
  have := P_FIELD_fact
  have h2y : (2 : ZMod P_FIELD) * y ≠ 0 := mul_ne_zero two_ne_zero' (cast_ne_zero hy hy0.ne')
  rw [modEq_iff_cast_eq, Int.cast_mul, Int.cast_natCast, cast_mod]
  push_cast
  rw [cast_invP]
  push_cast
  rw [inv_mul_cancel_right₀ h2y]

theorem Point.add_self (Q : Point) : Q.add Q = Q.dbl := by
  cases Q with
  | inf => rfl
  | aff x y => rw [Point.add, if_pos rfl, if_pos rfl]

/-- Settles O41. -/
theorem additionIsChordAndTangent : Obligations.AdditionIsChordAndTangent := by
  refine ⟨fun x1 y1 x2 y2 h1 h2 hne => ?_, fun x y hy0 hy => ?_, fun x => rfl, rfl,
    fun Q => ⟨Point.inf_add Q, Point.add_inf Q, Point.add_self Q⟩, fun x y y' hne => ?_⟩
  · obtain ⟨x3, y3, hchord, hx3, hy3, hx, hy⟩ := exists_chord (subP y2 y1 * invP (subP x2 x1) % P_FIELD) x1 y1 x2
    refine ⟨_, x3, y3, ?_, hx3, hy3, chord_slope h1 h2 hne, hx, hy⟩
    rw [Point.add, if_neg hne, hchord]
  · obtain ⟨x3, y3, hchord, hx3, hy3, hx, hord⟩ := exists_chord (3 * x ^ 2 * invP (2 * y) % P_FIELD) x y x
    refine ⟨_, x3, y3, ?_, hx3, hy3, tangent_slope hy0 hy, ?_, hord⟩
    · rw [Point.dbl, if_neg hy0.ne', hchord]
    · rwa [sub_sub, ← two_mul] at hx
  · rw [Point.add, if_pos rfl, if_neg hne]

/-! ### The group -/

/-- Settles O42, in the curve's group. -/
theorem theCurveIsAGroup : Obligations.TheCurveIsAGroup := by
  intro P Q R hPc hPr hQc hQr hRc hRr
  have := P_FIELD_fact
  obtain ⟨p, hP⟩ := Rep.exists_of (F := ZMod P_FIELD) hPc hPr
  obtain ⟨q, hQ⟩ := Rep.exists_of (F := ZMod P_FIELD) hQc hQr
  obtain ⟨r, hR⟩ := Rep.exists_of (F := ZMod P_FIELD) hRc hRr
  refine ⟨(hP.add hQ).onCurve, (hP.add hQ).reduced, hP.neg.onCurve, hP.neg.reduced, ?_, ?_, Point.add_inf P, ?_⟩
  · exact (add_assoc p q r ▸ (hP.add hQ).add hR).left_unique (hP.add (hQ.add hR))
  · exact (add_comm p q ▸ hP.add hQ).left_unique (hQ.add hP)
  · exact (add_neg_cancel p ▸ hP.add hP.neg).left_unique .inf

theorem Rep.eq_inf_iff {F : Type} [Field F] [CharP F P_FIELD] {Q : Point} {R : (curve F).toAffine.Point}
    (h : Rep Q R) : Q = .inf ↔ R = 0 := by
  cases h with
  | inf => exact iff_of_true rfl rfl
  | aff => exact iff_of_false nofun nofun

/-- A multiple of a point other than infinity is infinity exactly for the multiples of n, which is prime. -/
theorem Rep.mulSpec_eq_inf_iff [Fact P_FIELD.Prime] {Q : Point} {R : (curve (ZMod P_FIELD)).toAffine.Point}
    (h : Rep Q R) (hQ : Q ≠ .inf) (k : Nat) : Q.mulSpec k = .inf ↔ N_ORDER ∣ k := by
  have := N_ORDER_fact
  rw [(h.mulSpec k).eq_inf_iff, ← addOrderOf_dvd_iff_nsmul_eq_zero,
    addOrderOf_eq_prime (order_nsmul R) fun h0 => hQ (h.eq_inf_iff.2 h0)]

/-- Settles O47. -/
theorem pointsOfTheCurveHaveOrderN : Obligations.PointsOfTheCurveHaveOrderN := by
  intro Q hc hr
  have := P_FIELD_fact
  obtain ⟨R, h⟩ := Rep.exists_of (F := ZMod P_FIELD) hc hr
  exact ⟨(h.mulSpec N_ORDER).eq_inf_iff.2 (order_nsmul R), Point.mulSpec_order_sub_one hc hr, h.mulSpec_eq_inf_iff⟩

end Sys2Proof.Machine
end

section
/-! PROOF. ECDSA (45_ecdsa.md R138-R142): O48 to O52. -/

namespace Sys2Proof.Machine

open Sys2Proof.Config

/-! ### Quotients mod n -/

/-- The one scalar that times a is c is c times the inverse of a. -/
theorem eq_mul_invN {a x c : Nat} (ha : a % N_ORDER ≠ 0) (hx : x < N_ORDER)
    (h : a * x % N_ORDER = c % N_ORDER) : x = c * invN a % N_ORDER := by
  refine eq_of_mul_mod_eq N_ORDER_prime ha hx (Nat.mod_lt _ N_ORDER_pos) ?_
  rw [h, Nat.mul_mod_mod, mul_left_comm, Nat.mul_mod, mul_invN ha, mul_one, Nat.mod_mod]

theorem mod_ne_zero {a : Nat} (ha : a ≠ 0) (hlt : a < N_ORDER) : a % N_ORDER ≠ 0 := by
  rwa [Nat.mod_eq_of_lt hlt]

theorem inScalarRange_iff (r sv : Nat) :
    inScalarRange r sv = true ↔ r ≠ 0 ∧ r < N_ORDER ∧ sv ≠ 0 ∧ sv < N_ORDER := decide_eq_true_iff

/-- The combined multiply of a point of the curve, by repeated additions. -/
theorem combined_eq_mulSpec {Q : Point} (hc : Q.onCurve = true) (hr : Q.reduced = true) (a b : Nat) :
    combined a b Q = ((Point.aff GX GY).mulSpec a).add (Q.mulSpec b) := by
  rw [combined, Point.gen_mul_eq_mulSpec, Point.mul_eq_mulSpec hc hr, Point.gen]

/-! ### Sign (45_ecdsa.md R140) -/

section sign

variable {hv dv kv x y sv : Nat}

theorem ecdsaSign_of_inf (h : (Point.aff GX GY).mulSpec kv = .inf) : ecdsaSign hv dv kv = none := by
  rw [ecdsaSign, Point.gen_mul_eq_mulSpec, Point.gen, h]

theorem ecdsaSign_of_aff (h : (Point.aff GX GY).mulSpec kv = .aff x y) :
    ecdsaSign hv dv kv = signAt hv dv kv x y := by
  rw [ecdsaSign, Point.gen_mul_eq_mulSpec, Point.gen, h]

/-- A nonce with a finite point is not 0 mod n. -/
theorem nonce_ne_zero (h : (Point.aff GX GY).mulSpec kv = .aff x y) (hlt : kv < N_ORDER) : kv % N_ORDER ≠ 0 := by
  refine mod_ne_zero ?_ hlt
  rintro rfl
  cases h

/-- Sign, in terms of the solution sv of kv sv = hv + r dv. -/
theorem ecdsaSign_eq (h : (Point.aff GX GY).mulSpec kv = .aff x y) (hk : kv < N_ORDER) (hsv : sv < N_ORDER)
    (heq : kv * sv % N_ORDER = (hv + x % N_ORDER * dv) % N_ORDER) :
    ecdsaSign hv dv kv = if x % N_ORDER = 0 ∨ sv = 0 then none
      else some (lowS (x % N_ORDER) sv (if N_ORDER ≤ x then 1 else 0) (y % 2)) := by
  have hs : invN kv * (hv + x % N_ORDER * dv) % N_ORDER = sv := by
    rw [mul_comm, ← eq_mul_invN (nonce_ne_zero h hk) hsv heq]
  rw [ecdsaSign_of_aff h, signAt, hs]
  by_cases hr : x % N_ORDER = 0
  · simp [hr]
  · by_cases hsv0 : sv = 0 <;> simp [hr, hsv0]

end sign

theorem lowS_bytes (r sv ovf par : Nat) :
    (lowS r sv ovf par).bytes = bytesBE 32 r ++ bytesBE 32 (if (N_ORDER - 1) / 2 < sv then N_ORDER - sv else sv) ++
      [BitVec.ofNat 8 (2 * ovf + (if (N_ORDER - 1) / 2 < sv then 1 - par else par))] := by
  rw [lowS]
  split <;> rfl

/-- Settles O48. -/
theorem signWritesTheSignature : Obligations.SignWritesTheSignature := by
  intro s slot h d k hs hslot hh hd hk hctx
  have retry : ecdsaSign s.S[h].v s.S[d].v s.S[k].v = none →
      (commit (.esign slot h d k) s).C = false ∧ OnlyC s (commit (.esign slot h d k) s) := fun hnone => by
    rw [commit, hnone]
    exact ⟨rfl, onlyC_writeC s false⟩
  refine ⟨fun hinf => yields_commit (retry (ecdsaSign_of_inf hinf)), fun x y sv hR hsv heq => ?_⟩
  have hsign := ecdsaSign_eq hR (hs.scalar k hk) hsv heq
  refine ⟨fun hzero => yields_commit (retry (by rw [hsign, if_pos hzero])), fun hr hs0 => yields_commit ?_⟩
  rw [if_neg (not_or.2 ⟨hr, hs0⟩)] at hsign
  rw [commit, hsign, ← lowS_bytes]
  exact ⟨bytesAt_writeBytes s _ _, rfl, onlyStoreC_writeBytes s _ (Signature.bytes_length _) true⟩

/-! ### Verify (45_ecdsa.md R141) -/

theorem xMatches_iff (r : Nat) (Q : Point) : xMatches r Q = true ↔ ∃ x y, Q = .aff x y ∧ x % N_ORDER = r := by
  cases Q <;> simp [xMatches]

/-- Settles O49. -/
theorem verifyWritesTheVerdict : Obligations.VerifyWritesTheVerdict := by
  rintro s q h slot r sv hs hslot hq hh hctx rfl rfl
  refine ⟨fun hbad => yields_commit ⟨?_, onlyC_writeC s _⟩, fun hr hrn hs0 hsn hne hc u1 u2 hu1 hu2 h1 h2 =>
    yields_commit ⟨onlyC_writeC s _, ?_⟩⟩
  · refine Bool.eq_false_iff.2 fun hverify => ?_
    simp only [commit, State.advance_C, State.writeC_C, ecdsaVerify, Bool.and_eq_true, inScalarRange_iff, isValid_iff]
      at hverify
    obtain ⟨⟨⟨hr, hrn, hs0, hsn⟩, hne, hc⟩, -⟩ := hverify
    obtain hr' | hrn' | hs' | hsn' | hinf | hoff := hbad
    · exact hr hr'
    · exact absurd hrn (not_lt.2 hrn')
    · exact hs0 hs'
    · exact absurd hsn (not_lt.2 hsn')
    · exact hne hinf
    · exact Bool.false_ne_true (hoff.symm.trans hc)
  · have hinv := mod_ne_zero hs0 hsn
    have hu1 := eq_mul_invN hinv hu1 (h1.trans (Nat.mod_eq_of_lt (hs.scalar h hh)).symm)
    have hu2 := eq_mul_invN hinv hu2 (h2.trans (Nat.mod_eq_of_lt hrn).symm)
    have hrange := (inScalarRange_iff _ _).2 ⟨hr, hrn, hs0, hsn⟩
    simp only [commit, State.advance_C, State.writeC_C, ecdsaVerify, hrange, (isValid_iff _).2 ⟨hne, hc⟩,
      Bool.true_and]
    rw [xMatches_iff, ← hu1, ← hu2, combined_eq_mulSpec hc (hs.affine q hq)]

/-! ### Recover (45_ecdsa.md R142) -/

/-- Two ordinates of one abscissa are equal or opposite, and p is odd. -/
theorem eq_or_eq_sub_of_sq {y z : Nat} (hy : y < P_FIELD) (hz : z < P_FIELD) (h : y ^ 2 % P_FIELD = z ^ 2 % P_FIELD)
    (hz0 : z ≠ 0) : y = z ∨ y = P_FIELD - z := by
  have := P_FIELD_fact
  have hsq : (y : ZMod P_FIELD) ^ 2 = z ^ 2 := by
    have := (cast_eq_cast_iff (F := ZMod P_FIELD) _ _).2 h
    push_cast at this
    exact this
  obtain heq | hneg := sq_eq_sq_iff_eq_or_eq_neg.1 hsq
  · exact .inl (eq_of_cast_eq hy hz heq)
  · refine .inr (eq_of_cast_eq (F := ZMod P_FIELD) hy (by omega) ?_)
    rw [hneg, ← Rep.cast_negP hz, cast_mod]

/-- The lifted point is the one of the curve with the abscissa and the parity asked for. -/
theorem liftX_eq_some {x y : Nat} (hy : y < P_FIELD) (h : y ^ 2 % P_FIELD = (x ^ 3 + 7) % P_FIELD) :
    liftX x (y % 2) = some (.aff x y) := by
  have hroot : y * y % P_FIELD = (x ^ 3 + 7) % P_FIELD % P_FIELD := by rw [Nat.mod_mod, ← pow_two, h]
  obtain ⟨hsq, -⟩ := fsqrtCand_of_square hroot
  rw [← pow_two, Nat.mod_mod] at hsq
  have hlt := fsqrtCand_lt ((x ^ 3 + 7) % P_FIELD)
  have hodd : P_FIELD % 2 = 1 := by decide
  rw [liftX, CURVE_B]
  generalize hz : fsqrtCand ((x ^ 3 + 7) % P_FIELD) = z at hsq hlt ⊢
  have hz0 : z ≠ 0 := by
    rintro rfl
    exact cube_add_seven_ne_zero x (hsq.symm.trans (by decide))
  simp only [hsq, ne_eq, not_true_eq_false, if_false]
  obtain rfl | hneg := eq_or_eq_sub_of_sq hy hlt (h.trans hsq.symm) hz0
  · rw [if_neg (by simp)]
  · rw [if_pos (by omega), ← hneg]

theorem liftX_eq_none {x : Nat} (h : ¬ ∃ y, y ^ 2 % P_FIELD = (x ^ 3 + 7) % P_FIELD) (par : Nat) :
    liftX x par = none := by
  rw [liftX]
  exact if_pos fun hsq => h ⟨_, hsq⟩

/-- The lifted point has the abscissa asked for. -/
theorem liftX_abscissa {x par : Nat} {R : Point} (h : liftX x par = some R) : ∃ y, R = .aff x y := by
  simp only [liftX] at h
  split at h
  · cases h
  · split at h <;> exact ⟨_, (Option.some.inj h).symm⟩

theorem recoverKey_eq (hv r sv : Nat) (R : Point) :
    recoverKey hv r sv R =
      if combined ((N_ORDER - hv) * invN r % N_ORDER) (sv * invN r % N_ORDER) R = .inf then none
      else some (combined ((N_ORDER - hv) * invN r % N_ORDER) (sv * invN r % N_ORDER) R) := by
  unfold recoverKey
  generalize combined ((N_ORDER - hv) * invN r % N_ORDER) (sv * invN r % N_ORDER) R = Q
  cases Q with
  | inf => exact (if_pos rfl).symm
  | aff x y => exact (if_neg nofun).symm

section recover

variable {hv r sv rid x : Nat}

theorem ecdsaRecover_of_lift {R : Point} (hid : rid ≤ 3) (hrange : inScalarRange r sv = true)
    (hx : r + rid / 2 * N_ORDER < P_FIELD) (hlift : liftX (r + rid / 2 * N_ORDER) (rid % 2) = some R) :
    ecdsaRecover hv r sv rid = recoverKey hv r sv R := by
  rw [ecdsaRecover, if_neg (by omega), hrange, if_neg (by decide), if_neg (not_le.2 hx), hlift]

/-- A recovery that succeeds lifted a point and got its key. -/
theorem exists_lift_of_ecdsaRecover {Q : Point} (h : ecdsaRecover hv r sv rid = some Q) :
    rid ≤ 3 ∧ inScalarRange r sv = true ∧ r + rid / 2 * N_ORDER < P_FIELD ∧
      ∃ R, liftX (r + rid / 2 * N_ORDER) (rid % 2) = some R ∧ recoverKey hv r sv R = some Q := by
  unfold ecdsaRecover at h
  split_ifs at h with hid hrange hx
  split at h
  · cases h
  · rename_i R hlift
    exact ⟨not_lt.1 hid, by simpa using hrange, not_le.1 hx, R, hlift, h⟩

end recover

/-- Settles O50. -/
theorem recoverWritesTheKey : Obligations.RecoverWritesTheKey := by
  rintro s d h slot r sv rid x hs hslot hh hctx rfl rfl rfl rfl
  have failed : ∀ {hv r sv rid : Nat}, ecdsaRecover hv r sv rid = none →
      (s.writeRecovered d (ecdsaRecover hv r sv rid)).advance.C = false ∧
        OnlyC s (s.writeRecovered d (ecdsaRecover hv r sv rid)).advance := fun hnone => by
    rw [hnone]
    exact ⟨rfl, onlyC_writeC s false⟩
  refine ⟨fun hbad => yields_commit (failed ?_), fun hid hr hrn hs0 hsn hx y u1 u2 hy hcurve hpar hu1 hu2 h1 h2 => ?_⟩
  · refine Option.eq_none_iff_forall_ne_some.2 fun Q hQ => ?_
    obtain ⟨hid, hrange, hx, R, hlift, -⟩ := exists_lift_of_ecdsaRecover hQ
    obtain ⟨hr, hrn, hs0, hsn⟩ := (inScalarRange_iff _ _).1 hrange
    obtain hid' | hr' | hrn' | hs' | hsn' | hx' | hcurve := hbad
    · exact absurd hid (not_le.2 hid')
    · exact hr hr'
    · exact absurd hrn (not_lt.2 hrn')
    · exact hs0 hs'
    · exact absurd hsn (not_lt.2 hsn')
    · exact absurd hx (not_lt.2 hx')
    · rw [liftX_eq_none hcurve] at hlift
      cases hlift
  · have hlift := hpar ▸ liftX_eq_some hy hcurve
    obtain ⟨hRc, hRr⟩ := liftX_spec hx hlift
    have hinv := mod_ne_zero hr hrn
    have hlt := hs.scalar h hh
    have hneg : s.memRead (slotAddr slot) 32 * u1 % N_ORDER = (N_ORDER - s.S[h].v) % N_ORDER := by
      refine Nat.ModEq.add_right_cancel' s.S[h].v ?_
      rw [Nat.ModEq, h1, Nat.sub_add_cancel hlt.le, Nat.mod_self]
    have hkey := ecdsaRecover_of_lift (hv := s.S[h].v) hid ((inScalarRange_iff _ _).2 ⟨hr, hrn, hs0, hsn⟩) hx hlift
    rw [recoverKey_eq, ← eq_mul_invN hinv hu1 hneg, ← eq_mul_invN hinv hu2 (h2.trans (Nat.mod_eq_of_lt hsn).symm),
      combined_eq_mulSpec hRc hRr] at hkey
    refine ⟨fun hinf => yields_commit (failed (hkey.trans (if_pos hinf))), fun hne => yields_commit ?_⟩
    rw [commit, hkey.trans (if_neg hne)]
    exact ⟨s.writeA_same d _, rfl, onlyAC_writeA s d _ true⟩

end Sys2Proof.Machine
end

section
/-! PROOF. Signing, verifying and recovering agree, since each is a form of one equation of points: with s the
signature's s and Q the key, s R = h G + r Q (45_ecdsa.md R140-R142): O51, O52. -/

namespace Sys2Proof.Machine

open Sys2Proof.Config

/-! ### Multiples mod n -/

section points

variable [Fact P_FIELD.Prime] {G Q R : (curve (ZMod P_FIELD)).toAffine.Point} {h r sv : Nat}

theorem nsmul_mod (a : Nat) (R : (curve (ZMod P_FIELD)).toAffine.Point) : (a % N_ORDER) • R = a • R := by
  conv_rhs => rw [← Nat.mod_add_div a N_ORDER, add_smul, mul_comm, mul_smul, order_nsmul, nsmul_zero, add_zero]

theorem invN_nsmul_nsmul {a : Nat} (ha : a % N_ORDER ≠ 0) (R : (curve (ZMod P_FIELD)).toAffine.Point) :
    invN a • a • R = R := by
  rw [smul_smul, ← nsmul_mod, mul_comm, mul_invN ha, one_smul]

theorem order_sub_nsmul {a : Nat} (ha : a ≤ N_ORDER) (R : (curve (ZMod P_FIELD)).toAffine.Point) :
    (N_ORDER - a) • R = -(a • R) := by
  refine eq_neg_of_add_eq_zero_left ?_
  rw [← add_smul, Nat.sub_add_cancel ha, order_nsmul]

/-- What EVERIFY computes is R when s R = h G + r Q. -/
theorem verify_point (hsv : sv % N_ORDER ≠ 0) (heq : sv • R = h • G + r • Q) :
    (h * invN sv % N_ORDER) • G + (r * invN sv % N_ORDER) • Q = R := by
  rw [nsmul_mod, nsmul_mod, mul_comm h, mul_comm r, mul_smul, mul_smul, ← nsmul_add, ← heq, invN_nsmul_nsmul hsv]

/-- What ERECOVER computes is Q exactly when s R = h G + r Q. -/
theorem recover_point_iff (hh : h ≤ N_ORDER) (hr : r % N_ORDER ≠ 0) :
    ((N_ORDER - h) * invN r % N_ORDER) • G + (sv * invN r % N_ORDER) • R = Q ↔ sv • R = h • G + r • Q := by
  rw [nsmul_mod, nsmul_mod, mul_comm _ (invN r), mul_comm sv, mul_smul, mul_smul, ← nsmul_add, order_sub_nsmul hh]
  constructor
  · rintro rfl
    rw [smul_comm, invN_nsmul_nsmul hr]
    abel
  · intro heq
    rw [heq, neg_add_cancel_left, invN_nsmul_nsmul hr]

end points

/-! ### The three operations under the equation -/

section equation

variable [Fact P_FIELD.Prime] {G Q R : (curve (ZMod P_FIELD)).toAffine.Point} {hv r sv x y : Nat} {P : Point}
  (hG : Rep Point.gen G) (hP : Rep P Q) (hR : Rep (.aff x y) R)

include hG hP hR

theorem ecdsaVerify_of_equation (hrange : inScalarRange r sv = true) (hinf : P ≠ .inf) (hx : x % N_ORDER = r)
    (heq : sv • R = hv • G + r • Q) : ecdsaVerify P hv r sv = true := by
  obtain ⟨-, -, hs0, hsn⟩ := (inScalarRange_iff r sv).1 hrange
  have hrep := combined_rep hG hP (hv * invN sv % N_ORDER) (r * invN sv % N_ORDER)
  rw [verify_point (mod_ne_zero hs0 hsn) heq] at hrep
  rw [ecdsaVerify, hrange, (isValid_iff P).2 ⟨hinf, hP.onCurve⟩, hrep.left_unique hR, Bool.true_and, Bool.true_and,
    xMatches_iff]
  exact ⟨x, y, rfl, hx⟩

theorem recoverKey_of_equation (hlt : hv < N_ORDER) (hr : r % N_ORDER ≠ 0) (hinf : P ≠ .inf)
    (heq : sv • R = hv • G + r • Q) : recoverKey hv r sv (.aff x y) = some P := by
  have hrep := combined_rep hG hR ((N_ORDER - hv) * invN r % N_ORDER) (sv * invN r % N_ORDER)
  rw [(recover_point_iff hlt.le hr).2 heq] at hrep
  rw [recoverKey_eq, hrep.left_unique hP, if_neg hinf]

end equation

/-- A recovered key solves the equation. -/
theorem equation_of_recoverKey [Fact P_FIELD.Prime] {G R : (curve (ZMod P_FIELD)).toAffine.Point} {hv r sv : Nat}
    {P R' : Point} (hG : Rep Point.gen G) (hR : Rep R' R) (hlt : hv < N_ORDER) (hr : r % N_ORDER ≠ 0)
    (hkey : recoverKey hv r sv R' = some P) : P ≠ .inf ∧ ∃ Q, Rep P Q ∧ sv • R = hv • G + r • Q := by
  have hrep := combined_rep hG hR ((N_ORDER - hv) * invN r % N_ORDER) (sv * invN r % N_ORDER)
  rw [recoverKey_eq] at hkey
  split at hkey
  · cases hkey
  · rename_i hne
    obtain rfl := Option.some.inj hkey
    exact ⟨hne, _, hrep, (recover_point_iff hlt.le hr).1 rfl⟩

/-! ### What ESIGN writes solves the equation -/

/-- Negating the point and s together, as the low s needs, keeps the equation and flips the parity. -/
theorem lowS_equation [Fact P_FIELD.Prime] {R T : (curve (ZMod P_FIELD)).toAffine.Point} {r sv ovf x y : Nat}
    (hR : Rep (.aff x y) R) (hs0 : sv ≠ 0) (hsn : sv < N_ORDER) (heq : sv • R = T) :
    ∃ y' R', Rep (.aff x y') R' ∧ (lowS r sv ovf (y % 2)).s • R' = T ∧
      (lowS r sv ovf (y % 2)).recid = 2 * ovf + y' % 2 ∧ (lowS r sv ovf (y % 2)).r = r ∧
      (lowS r sv ovf (y % 2)).s ≠ 0 ∧ (lowS r sv ovf (y % 2)).s < N_ORDER := by
  rw [lowS]
  split
  · have hy : y < P_FIELD := (coords_lt hR.reduced).2
    have hy0 : y ≠ 0 := by
      rintro rfl
      have hc := hR.onCurve
      rw [Point.onCurve, decide_eq_true_iff] at hc
      exact cube_add_seven_ne_zero x hc.symm
    have hodd : P_FIELD % 2 = 1 := by decide
    refine ⟨_, -R, hR.neg, ?_, ?_, rfl, Nat.sub_ne_zero_of_lt hsn, Nat.sub_lt N_ORDER_pos (Nat.pos_of_ne_zero hs0)⟩
    · rw [order_sub_nsmul hsn.le, neg_nsmul, neg_neg, heq]
    · rw [Nat.mod_eq_of_lt (show P_FIELD - y < P_FIELD by omega)]
      show 2 * ovf + (1 - y % 2) = 2 * ovf + (P_FIELD - y) % 2
      omega
  · exact ⟨y, R, hR, heq, rfl, rfl, hs0, hsn⟩

/-- The abscissa of the nonce's point, from its residue mod n and the overflow bit. -/
theorem mod_order_add_overflow {x : Nat} (hx : x < P_FIELD) :
    x % N_ORDER + (if N_ORDER ≤ x then 1 else 0) * N_ORDER = x := by
  have h2 : P_FIELD < 2 * N_ORDER := by decide
  split
  · rename_i hle
    rw [Nat.mod_eq_sub_mod hle, Nat.mod_eq_of_lt (by omega)]
    omega
  · rename_i hlt
    rw [Nat.mod_eq_of_lt (not_le.1 hlt), zero_mul, add_zero]

/-- A signature solves the equation with the key d G and a point that its r and recovery id name. -/
theorem equation_of_ecdsaSign [Fact P_FIELD.Prime] {G : (curve (ZMod P_FIELD)).toAffine.Point} {hv dv kv : Nat}
    {sig : Signature} (hG : Rep Point.gen G) (hk : kv < N_ORDER) (hsign : ecdsaSign hv dv kv = some sig) :
    ∃ y R, Rep (.aff (sig.r + sig.recid / 2 * N_ORDER) y) R ∧ sig.s • R = hv • G + sig.r • dv • G ∧
      y % 2 = sig.recid % 2 ∧ sig.recid ≤ 3 ∧ inScalarRange sig.r sig.s = true := by
  cases hmul : (Point.aff GX GY).mulSpec kv with
  | inf =>
    rw [ecdsaSign_of_inf hmul] at hsign
    cases hsign
  | aff x y =>
    have hR : Rep (.aff x y) (kv • G) := hmul ▸ hG.mulSpec kv
    have hx : x < P_FIELD := (coords_lt hR.reduced).1
    obtain ⟨sv, hsn, hsv⟩ : ∃ sv < N_ORDER, kv * sv % N_ORDER = (hv + x % N_ORDER * dv) % N_ORDER :=
      ⟨(hv + x % N_ORDER * dv) * invN kv % N_ORDER, Nat.mod_lt _ N_ORDER_pos, by
        rw [Nat.mul_mod_mod, mul_left_comm, Nat.mul_mod, mul_invN (nonce_ne_zero hmul hk), mul_one, Nat.mod_mod]⟩
    have heq : sv • kv • G = hv • G + (x % N_ORDER) • dv • G := by
      rw [smul_smul, smul_smul, ← add_smul, ← nsmul_mod, mul_comm, hsv, nsmul_mod]
    rw [ecdsaSign_eq hmul hk hsn hsv] at hsign
    split at hsign
    · cases hsign
    · rename_i hne
      obtain ⟨hr0, hs0⟩ := not_or.1 hne
      obtain ⟨y', R', hR', heq', hid, hr, hs0', hsn'⟩ :=
        lowS_equation (r := x % N_ORDER) (ovf := if N_ORDER ≤ x then 1 else 0) hR hs0 hsn heq
      obtain rfl := Option.some.inj hsign
      have hovf : (if N_ORDER ≤ x then 1 else 0) ≤ 1 := by split <;> decide
      have hdiv : (2 * (if N_ORDER ≤ x then 1 else 0) + y' % 2) / 2 = if N_ORDER ≤ x then 1 else 0 := by omega
      refine ⟨y', R', ?_, by rw [hr]; exact heq', by omega, by omega, ?_⟩
      · rw [hr, hid, hdiv, mod_order_add_overflow hx]
        exact hR'
      · rw [inScalarRange_iff, hr]
        exact ⟨hr0, Nat.mod_lt _ N_ORDER_pos, hs0', hsn'⟩

/-! ### Reading back a signature -/

theorem memRead_of_bytesAt {s : State} {lo : Nat} {bs : List Byte} (h : BytesAt s lo bs) :
    s.memRead lo bs.length = valueBE bs := by
  rw [State.memRead]
  congr 1
  refine List.ext_getElem (by simp) fun i hi _ => ?_
  simp only [List.length_map, List.length_range] at hi
  simp [h i hi]

theorem BytesAt.left {s : State} {lo : Nat} {as bs : List Byte} (h : BytesAt s lo (as ++ bs)) : BytesAt s lo as :=
  fun i hi => (h i (by rw [List.length_append]; omega)).trans (List.getElem_append_left hi)

theorem BytesAt.right {s : State} {lo : Nat} {as bs : List Byte} (h : BytesAt s lo (as ++ bs)) :
    BytesAt s (lo + as.length) bs := fun i hi => by
  rw [add_assoc, h (as.length + i) (by rw [List.length_append]; omega), List.getElem_append_right (by omega)]
  simp

theorem memRead_bytesBE {s : State} {lo v : Nat} (h : BytesAt s lo (bytesBE 32 v)) (hv : v < N_ORDER) :
    s.memRead lo 32 = v := by
  have hread := memRead_of_bytesAt h
  rwa [bytesBE_length, valueBE_bytesBE, Nat.mod_eq_of_lt (hv.trans (by decide))] at hread

/-- The three parts of a signature in memory. -/
theorem read_signature {s : State} {lo : Nat} {sig : Signature} (h : BytesAt s lo sig.bytes)
    (hrange : inScalarRange sig.r sig.s = true) (hid : sig.recid ≤ 3) :
    s.memRead lo 32 = sig.r ∧ s.memRead (lo + 32) 32 = sig.s ∧ (s.readByte (lo + 64)).toNat = sig.recid := by
  obtain ⟨-, hrn, -, hsn⟩ := (inScalarRange_iff _ _).1 hrange
  have hs := h.left.right
  have hlast := h.right 0 (by simp)
  rw [bytesBE_length] at hs
  rw [List.length_append, bytesBE_length, bytesBE_length] at hlast
  refine ⟨memRead_bytesBE h.left.left hrn, memRead_bytesBE hs hsn, ?_⟩
  rw [show lo + 64 = lo + (32 + 32) + 0 by omega, hlast]
  exact Nat.mod_eq_of_lt (by omega)

/-! ### The instructions -/

theorem yields_everify {s : State} {q h : RegIdx} {slot : Nat} {P : Point} {hv r sv : Nat} (hslot : slot ≤ 126)
    (hq : s.A[q] = ⟨P, true⟩) (hh : s.S[h] = ⟨hv, true⟩) (hctx : s.GCTX = true) (hr : s.memRead (slotAddr slot) 32 = r)
    (hsv : s.memRead (slotAddr slot + 32) 32 = sv) (hverify : ecdsaVerify P hv r sv = true) :
    Yields (.everify q h slot) s fun u => u.C = true := by
  refine yields_commit ?_
  rw [commit, hq, hh, hr, hsv, hverify]
  rfl

theorem yields_erecover {s : State} {d h : RegIdx} {slot : Nat} {P : Point} {hv r sv rid : Nat} (hslot : slot ≤ 125)
    (hh : s.S[h] = ⟨hv, true⟩) (hctx : s.GCTX = true) (hr : s.memRead (slotAddr slot) 32 = r)
    (hsv : s.memRead (slotAddr slot + 32) 32 = sv) (hid : (s.readByte (slotAddr slot + 64)).toNat = rid)
    (hrecover : ecdsaRecover hv r sv rid = some P) :
    Yields (.erecover d h slot) s fun u => u.C = true ∧ u.A[d] = ⟨P, true⟩ := by
  refine yields_commit ?_
  rw [commit, hh, hr, hsv, hid, hrecover]
  exact ⟨rfl, s.writeA_same d P⟩

/-- An instruction has one next state. -/
theorem Yields.of_exec {i : Instr} {s t : State} {claim : State → Prop} (h : Yields i s claim)
    (ht : exec i s = .next t) : claim t := by
  obtain ⟨u, hu, hclaim⟩ := h
  rwa [← Host.Outcome.next.inj (hu.symm.trans ht)]

/-- Settles O51: what ESIGN stores solves the equation with the key d G. -/
theorem signedHashesVerifyAndRecover : Obligations.SignedHashesVerifyAndRecover := by
  intro s t slot h d k q e hs hslot hh hd hd0 hk hctx hq ht hC
  have := P_FIELD_fact
  obtain ⟨G, hG⟩ := Rep.gen (F := ZMod P_FIELD)
  have hcommit : Yields (.esign slot h d k) s fun u => u = commit (.esign slot h d k) s := yields_commit rfl
  obtain rfl := hcommit.of_exec ht
  cases hsign : ecdsaSign s.S[h].v s.S[d].v s.S[k].v with
  | none =>
    rw [commit, hsign] at hC
    cases hC
  | some sig =>
    obtain ⟨y, R, hR, heq, hpar, hid, hrange⟩ := equation_of_ecdsaSign hG (hs.scalar k hk) hsign
    obtain ⟨hr0, hrn, -, -⟩ := (inScalarRange_iff _ _).1 hrange
    have hQ := hG.mulSpec s.S[d].v
    have hinf : (Point.aff GX GY).mulSpec s.S[d].v ≠ .inf := fun h0 =>
      mod_ne_zero hd0 (hs.scalar d hd) (Nat.mod_eq_zero_of_dvd ((hG.mulSpec_eq_inf_iff nofun _).1 h0))
    have hbytes : BytesAt (commit (.esign slot h d k) s) (slotAddr slot) sig.bytes := by
      rw [commit, hsign]
      exact bytesAt_writeBytes s _ _
    obtain ⟨hmr, hms, hmid⟩ := read_signature hbytes hrange hid
    have hS : (commit (.esign slot h d k) s).S[h] = ⟨s.S[h].v, true⟩ := by simp [commit, ← hh]
    have hA : (commit (.esign slot h d k) s).A[q] = ⟨(Point.aff GX GY).mulSpec s.S[d].v, true⟩ := by
      rw [← hq]
      simp [commit]
    have hGC : (commit (.esign slot h d k) s).GCTX = true := by simpa [commit] using hctx
    refine ⟨yields_everify (hslot.trans (by omega)) hA hS hGC hmr hms
      (ecdsaVerify_of_equation hG hQ hR hrange hinf ?_ heq), ?_⟩
    · rw [Nat.add_mul_mod_self_right, Nat.mod_eq_of_lt hrn]
    · rw [hq]
      refine yields_erecover hslot hS hGC hmr hms hmid ?_
      obtain ⟨hx, hy⟩ := coords_lt hR.reduced
      have hcurve := hR.onCurve
      rw [Point.onCurve, decide_eq_true_iff] at hcurve
      rw [ecdsaRecover_of_lift hid hrange hx (hpar ▸ liftX_eq_some hy hcurve)]
      exact recoverKey_of_equation hG hQ hR (hs.scalar h hh) (mod_ne_zero hr0 hrn) hinf heq

/-- Settles O52: the recovered key solves the equation, with a point whose abscissa is r mod n. -/
theorem recoveredKeysVerify : Obligations.RecoveredKeysVerify := by
  intro s t slot h e hs hslot hh hctx ht hC
  have := P_FIELD_fact
  obtain ⟨G, hG⟩ := Rep.gen (F := ZMod P_FIELD)
  have hcommit : Yields (.erecover e h slot) s fun u => u = commit (.erecover e h slot) s := yields_commit rfl
  obtain rfl := hcommit.of_exec ht
  rw [commit] at hC ⊢
  cases hkey : ecdsaRecover s.S[h].v (s.memRead (slotAddr slot) 32) (s.memRead (slotAddr slot + 32) 32)
    (s.readByte (slotAddr slot + 64)).toNat with
  | none =>
    rw [hkey] at hC
    cases hC
  | some P =>
    obtain ⟨-, hrange, hx, R', hlift, hP⟩ := exists_lift_of_ecdsaRecover hkey
    obtain ⟨hr, hrn, -, -⟩ := (inScalarRange_iff _ _).1 hrange
    obtain ⟨hRc, hRr⟩ := liftX_spec hx hlift
    obtain ⟨y, rfl⟩ := liftX_abscissa hlift
    obtain ⟨R, hR⟩ := Rep.exists_of (F := ZMod P_FIELD) hRc hRr
    obtain ⟨hinf, Q, hQ, heq⟩ := equation_of_recoverKey hG hR (hs.scalar h hh) (mod_ne_zero hr hrn) hP
    have hA : ((s.writeA e P).writeC true).advance.A[e] = ⟨P, true⟩ := s.writeA_same e P
    have hS : s.S[h] = ⟨s.S[h].v, true⟩ := by rw [← hh]
    refine ⟨?_, yields_everify (hslot.trans (by omega)) hA hS hctx rfl rfl
      (ecdsaVerify_of_equation hG hQ hR hrange hinf ?_ heq)⟩
    · rw [State.writeRecovered, hA]
      exact (isValid_iff P).2 ⟨hinf, hQ.onCurve⟩
    · rw [Nat.add_mul_mod_self_right, Nat.mod_eq_of_lt hrn]
      rfl

end Sys2Proof.Machine
end
